-- ==== Sys2Proof/Word.lean ====
section
/-! DEFINITION. The widths of the block's values (spec/00_scope.md R2, R3). All are unsigned bit vectors,
bit 0 the least significant (spec/20_memory.md R35). -/

namespace Sys2Proof

/-- `REG_W = PIN_W = DATA_W = RVAL_W = 8`: a data register, an operand field, a returned value (R2, R3). -/
abbrev Byte := BitVec 8

/-- `CMD_W = 24`: one command word `{OP, PIN, DATA}` (R3, R50). -/
abbrev CommandWord := BitVec 24

/-- `STATUS_W = 2`: the FAULT register and the response status (R3, R13). -/
abbrev FaultCode := BitVec 2

end Sys2Proof
end

