-- ==== Sys2Proof/Syntax.lean ====
section
/-! DEFINITION. The ten commands, their opcodes and formats (spec/30_encoding.md R51, R52), and the textual call
syntax (R62, R63) as data. -/

namespace Sys2Proof

/-- One constructor per row of spec/opcode_table.json, with exactly the operand fields the row's format uses
(R52: a field an opcode does not use has no effect). An operand is the raw 8-bit field: an invalid pin or bit
value is an operand of the command, and the command faults on it (R60). -/
inductive Instr where
  /-- `0x01`, format N (R71). -/
  | setPortOutput
  /-- `0x02`, format N (R72). -/
  | setPortInput
  /-- `0x03`, format P (R73). -/
  | setPinOutput (pin : Byte)
  /-- `0x04`, format P (R74). -/
  | setPinInput (pin : Byte)
  /-- `0x05`, format D (R81). -/
  | writePort (data : Byte)
  /-- `0x06`, format N (R82). -/
  | readPort
  /-- `0x07`, format PD (R91). -/
  | write (pin data : Byte)
  /-- `0x08`, format P (R92). -/
  | read (pin : Byte)
  /-- `0x09`, format PD (R93). -/
  | writeInt (pin data : Byte)
  /-- `0x0A`, format P (R94). -/
  | readInt (pin : Byte)
deriving DecidableEq, Repr

/-- Why a command word is no command: its opcode is reserved (R59). -/
inductive DecodeError where
  | reservedOpcode (op : Byte)
deriving DecidableEq, Repr

/-- The four operand formats (R52): which of the fields `PIN` and `DATA` an opcode uses. -/
inductive Format where
  | formatN | formatP | formatD | formatPD
deriving DecidableEq, Repr

/-- Does the format use `PIN` (R52)? -/
def Format.usesPin : Format → Bool
  | .formatN => false
  | .formatP => true
  | .formatD => false
  | .formatPD => true

/-- Does the format use `DATA` (R52)? -/
def Format.usesData : Format → Bool
  | .formatN => false
  | .formatP => false
  | .formatD => true
  | .formatPD => true

/-- The operation names of the textual form (R62). -/
inductive Operation where
  | setPortOutput | setPortInput | setPinOutput | setPinInput | writePort | readPort | write | read | writeInt
  | readInt
deriving DecidableEq, Repr

/-- An operand as written: a numeral of any size, or one of the names R63 accepts. -/
inductive Operand where
  | numeral (n : Nat)
  | on | off | trueName | falseName
deriving DecidableEq, Repr

/-- A command in the textual form, not yet checked: an operation's name and operands in order, pin first (R62). -/
structure Call where
  name : Operation
  args : List Operand
deriving DecidableEq, Repr

/-- Why the assembler rejects a line (R62: rejected by the assembler, not by the block). -/
inductive AsmError where
  /-- The line is not of the form `name(operand, ...)`. -/
  | malformedLine
  /-- The name is none of the ten. -/
  | unknownOperation
  /-- An operand is neither a numeral nor one of the names of R63. -/
  | malformedOperand
  /-- The number of operands is not the format's. -/
  | wrongOperandCount
  /-- A numeral outside 0..255 cannot be encoded (R62). -/
  | operandTooLarge
  /-- `ON`, `OFF`, `true`, `false` stand only as the data operand of `write` (R63). -/
  | nameNotAllowed
deriving DecidableEq, Repr

end Sys2Proof
end

