-- ==== Sys2Proof/Decode.lean ====
section
/-! DEFINITION. The command word's fields (spec/30_encoding.md R50), the decoder and the encoder (R51, R52, R59), and
the numbering of spec/opcode_table.json. -/

namespace Sys2Proof

/-- `OP`, bits 23:16 (R50). -/
def opField (w : CommandWord) : Byte := w.extractLsb' 16 8

/-- `PIN`, bits 15:8 (R50). -/
def pinField (w : CommandWord) : Byte := w.extractLsb' 8 8

/-- `DATA`, bits 7:0 (R50). -/
def dataField (w : CommandWord) : Byte := w.extractLsb' 0 8

/-- `cmd = {OP, PIN, DATA}` (R50). -/
def commandWord (op pin data : Byte) : CommandWord := op ++ pin ++ data

/-- The opcode map (R51): `OP` alone selects the operation, a field the format does not use is not looked at (R52),
and every other opcode is reserved (R59). The operands are checked by the command, not here (R60). -/
def decode (w : CommandWord) : Except DecodeError Instr :=
  match opField w with
  | 0x01#8 => .ok .setPortOutput
  | 0x02#8 => .ok .setPortInput
  | 0x03#8 => .ok (.setPinOutput (pinField w))
  | 0x04#8 => .ok (.setPinInput (pinField w))
  | 0x05#8 => .ok (.writePort (dataField w))
  | 0x06#8 => .ok .readPort
  | 0x07#8 => .ok (.write (pinField w) (dataField w))
  | 0x08#8 => .ok (.read (pinField w))
  | 0x09#8 => .ok (.writeInt (pinField w) (dataField w))
  | 0x0A#8 => .ok (.readInt (pinField w))
  | op => .error (.reservedOpcode op)

/-- The opcode of a command (R51). -/
def Instr.opcode : Instr → Byte
  | .setPortOutput => 0x01#8
  | .setPortInput => 0x02#8
  | .setPinOutput _ => 0x03#8
  | .setPinInput _ => 0x04#8
  | .writePort _ => 0x05#8
  | .readPort => 0x06#8
  | .write _ _ => 0x07#8
  | .read _ => 0x08#8
  | .writeInt _ _ => 0x09#8
  | .readInt _ => 0x0A#8

/-- The format of a command (R51, R52). -/
def Instr.format : Instr → Format
  | .setPortOutput => .formatN
  | .setPortInput => .formatN
  | .setPinOutput _ => .formatP
  | .setPinInput _ => .formatP
  | .writePort _ => .formatD
  | .readPort => .formatN
  | .write _ _ => .formatPD
  | .read _ => .formatP
  | .writeInt _ _ => .formatPD
  | .readInt _ => .formatP

/-- The value of the `PIN` field, zero where the format does not use it (R62). -/
def Instr.pinOperand : Instr → Byte
  | .setPortOutput => 0x00#8
  | .setPortInput => 0x00#8
  | .setPinOutput pin => pin
  | .setPinInput pin => pin
  | .writePort _ => 0x00#8
  | .readPort => 0x00#8
  | .write pin _ => pin
  | .read pin => pin
  | .writeInt pin _ => pin
  | .readInt pin => pin

/-- The value of the `DATA` field, zero where the format does not use it (R62). -/
def Instr.dataOperand : Instr → Byte
  | .setPortOutput => 0x00#8
  | .setPortInput => 0x00#8
  | .setPinOutput _ => 0x00#8
  | .setPinInput _ => 0x00#8
  | .writePort data => data
  | .readPort => 0x00#8
  | .write _ data => data
  | .read _ => 0x00#8
  | .writeInt _ data => data
  | .readInt _ => 0x00#8

/-- The canonical word of a command (R62): its opcode, its operands, zero in every field its format does not use. -/
def encode (i : Instr) : CommandWord := commandWord i.opcode i.pinOperand i.dataOperand

/-- The word that spec/opcode_table.json's numbering gives: bit k of the number is bit k of the word, and bits at
or above `nbits` are 0 (Log 10). -/
def tableWord (nbits w : Nat) : CommandWord := BitVec.ofNat 24 (w % 2 ^ nbits)

/-- The command the decoder reads from an opcode-table word; `none` where the decoder rejects it, and for a
width greater than the one length there is, 24 bits (R50). -/
def decodeTableWord (nbits w : Nat) : Option Instr :=
  if nbits ≤ 24 then (decode (tableWord nbits w)).toOption else none

end Sys2Proof
end

