-- ==== Sys2Proof/Machine/State.lean ====
section
/-! DEFINITION. The machine's state as plain data, and its value right after reset. The block's own state is the
tuple (DIR, OUT, IN, FAULT) and nothing else (spec/10_state.md R17). Two fields are the model's own, since a step
takes no argument and answers only a state: the outputs of the last edge and the inputs still to come (Log 1, 2). -/

namespace Sys2Proof.Machine

/-- The three fault causes (spec/60_exceptions.md R110). They are the BLOCK's faults: each is taken as the spec
describes, in a next state (R113). -/
inductive Cause where
  /-- A pin operand outside 0..4 (R111). -/
  | invalidPinIndex
  /-- A `writeInt` value other than 0 and 1 (R112). -/
  | invalidBitValue
  /-- A reserved opcode (R117). -/
  | illegalCommand
deriving DecidableEq, Repr

/-- One response: `rsp_status` and `rsp_val` while `rsp_valid` is 1 (spec/20_memory.md R32, spec/30_encoding.md R53). -/
structure Response where
  status : FaultCode
  value : Byte
deriving DecidableEq, Repr

/-- The input signals at one rising edge of `clk` (the signal list of spec/20_memory.md): the reset input, the
command port and the input-load port. -/
structure Edge where
  /-- `rst`. -/
  rst : Bool
  /-- `cmd_valid`: the host presents a command. -/
  cmdValid : Bool
  /-- `cmd_op`, `cmd_pin`, `cmd_data` as one word (R31). -/
  cmd : CommandWord
  /-- `in_we`: the environment loads `IN` at this edge. -/
  inWe : Bool
  /-- `in_d`. -/
  inD : Byte
deriving DecidableEq, Repr

/-- The architectural tuple of R17. -/
structure Registers where
  dir : Byte
  out : Byte
  inp : Byte
  fault : FaultCode
deriving DecidableEq, Repr

/-- The state of the machine. -/
structure State where
  /-- `DIR`: bit i is 1 iff pin i is an output (R10). -/
  dir : Byte
  /-- `OUT`: the stored output levels (R11). -/
  out : Byte
  /-- `IN`: the sensed levels, written only by the environment and reset (R12). -/
  inp : Byte
  /-- `FAULT`: 0 while RUNNING, else the cause code (R13). -/
  fault : FaultCode
  /-- MODEL'S OWN: the response outputs of the edge just taken, `none` where `rsp_valid` was 0 (R32; Log 2). -/
  rsp : Option Response
  /-- MODEL'S OWN: the input signals of the edges to come, the next one first (Log 1). -/
  edges : List Edge
deriving DecidableEq, Repr

/-- Why the MODEL stops. It has no constructor: nothing the spec describes stops the model, since a faulting command
takes the fault in a next state (R113) and a HALTED block still has its clock edges (R115, R33). -/
inductive Fault where
deriving DecidableEq, Repr

/-- Why the model gives a command no meaning. -/
inductive Refusal where
  /-- Raised by an arm of `exec` for a command not modelled yet; safe. No arm raises it. -/
  | notModelled (mnemonic : String)
deriving DecidableEq, Repr

/-- What a step or a command answers. -/
abbrev Out := Host.Outcome State Fault Refusal

/-- The architectural state (R17). -/
def State.registers (s : State) : Registers := ⟨s.dir, s.out, s.inp, s.fault⟩

/-- `DIR <- v`. -/
def State.withDir (s : State) (v : Byte) : State := { s with dir := v }

/-- `OUT <- v`. -/
def State.withOut (s : State) (v : Byte) : State := { s with out := v }

/-- `IN <- v`. -/
def State.withInp (s : State) (v : Byte) : State := { s with inp := v }

/-- `FAULT <- v`. -/
def State.withFault (s : State) (v : FaultCode) : State := { s with fault := v }

/-- The response outputs of this edge. -/
def State.withRsp (s : State) (r : Option Response) : State := { s with rsp := r }

/-- The edges still to come. -/
def State.withEdges (s : State) (es : List Edge) : State := { s with edges := es }

/-- Right after reset (spec/70_reset_and_hazards.md R140): all four registers zero, no edge taken since, no inputs
listed yet. -/
def State.reset : State :=
  { dir := 0x00#8, out := 0x00#8, inp := 0x00#8, fault := 0b00#2, rsp := none, edges := [] }

end Sys2Proof.Machine
end

