-- ==== Sys2Proof/Machine/Flags.lean ====
section
/-! DEFINITION. The only flag of the block is FAULT (spec/10_state.md R20): its codes, what it means, and the ready
condition and outputs computed from it. -/

namespace Sys2Proof.Machine

/-- The code of a cause: what FAULT and the response status become (spec/60_exceptions.md R110). -/
def Cause.code : Cause → FaultCode
  | .invalidPinIndex => 0b01#2
  | .invalidBitValue => 0b10#2
  | .illegalCommand => 0b11#2

/-- The status of a command that was performed (spec/30_encoding.md R53). -/
def statusOk : FaultCode := 0b00#2

/-- `halted = (FAULT != 0)` (spec/10_state.md R21). -/
def State.halted (s : State) : Bool := s.fault != 0b00#2

/-- `cmd_ready = (FAULT == 0) and not rst` (spec/20_memory.md R31). -/
def cmdReady (e : Edge) (s : State) : Bool := s.fault == 0b00#2 && !e.rst

/-- `rsp_valid = cmd_valid and cmd_ready` (R32). -/
def rspValid (e : Edge) (s : State) : Bool := e.cmdValid && cmdReady e s

/-- The observation outputs (spec/10_state.md R21, spec/20_memory.md R34). -/
structure Outputs where
  dirQ : Byte
  outQ : Byte
  inQ : Byte
  faultQ : FaultCode
  halted : Bool
deriving DecidableEq, Repr

/-- What the observation outputs show: the registers, as wires, without side effect (R21, R34). -/
def State.outputs (s : State) : Outputs :=
  { dirQ := s.dir, outQ := s.out, inQ := s.inp, faultQ := s.fault, halted := s.halted }

end Sys2Proof.Machine
end

