-- ==== Sys2Proof/Config.lean ====
section
/-! DEFINITION. The constants of the block. The spec leaves no parameter open (spec/00_scope.md section 4), so
nothing here is a free value. -/

namespace Sys2Proof.Config

/-- `NPINS = 5` (spec/00_scope.md R2). -/
abbrev npins : Nat := 5

/-- `WMASK = 0x1F`, the usable window, bits 4:0 (R2). -/
abbrev windowMask : Byte := 0x1F#8

/-- `HMASK = 0xE0`, the complement of the window within 8 bits (R2). -/
abbrev highMask : Byte := 0xE0#8

end Sys2Proof.Config
end

