-- ==== Sys2Proof/Machine/Operands.lean ====
section
/-! DEFINITION. Operand decoding and the block's whole arithmetic (spec/30_encoding.md R55 to R58, R64): the pin check
and select, the window, the two bit-value forms. -/

namespace Sys2Proof.Machine

/-- A valid pin index, 0..4 (spec/20_memory.md R30). -/
abbrev Pin := Fin Config.npins

/-- The pin an operand selects, `none` where `validPin` is false (R55): never clamped, wrapped or masked. -/
def selectPin (pin : Byte) : Option Pin :=
  if h : pin.toNat < Config.npins then some ⟨pin.toNat, h⟩ else none

/-- `validPin(PIN)`: `PIN < 5` unsigned (R55). -/
def validPin (pin : Byte) : Bool := (selectPin pin).isSome

/-- `bitmask(PIN) = 0x01 << PIN`, defined only for a valid pin (R56). -/
def bitmask (p : Pin) : Byte := 0x01#8 <<< p.val

/-- `R | m`: set the bits of `m` (R64 a). -/
def setBits (m r : Byte) : Byte := r ||| m

/-- `R & ~m`: clear the bits of `m` (R64 b). -/
def clearBits (m r : Byte) : Byte := r &&& ~~~m

/-- `(R & 0xE0) | (d & 0x1F)`: replace the window, keep the high bits (R57, R64 c). -/
def replaceWindow (d r : Byte) : Byte := (r &&& Config.highMask) ||| (d &&& Config.windowMask)

/-- `R & 0x1F`: the window (R64 d). -/
def window (r : Byte) : Byte := r &&& Config.windowMask

/-- `zext_8((R >> PIN)[0])`: the bit at a pin as `0x00` or `0x01` (R56, R64 e, R95). -/
def bitAt (p : Pin) (r : Byte) : Byte := (r >>> p.val) &&& 0x01#8

/-- Make the bit of a pin the given level (R91, R93). -/
def driveBit (p : Pin) (level : Bool) (r : Byte) : Byte :=
  if level then setBits (bitmask p) r else clearBits (bitmask p) r

/-- `write`'s operand: false is `0x00`, every other value is true (R58). -/
def boolOperand (data : Byte) : Bool := data != 0x00#8

/-- `writeInt`'s operand: exactly `0x00` or `0x01`, every other value is invalid (R58). -/
def bitOperand (data : Byte) : Option Bool :=
  if data = 0x00#8 then some false else if data = 0x01#8 then some true else none

/-- A boolean as a returned value: `0x01` true, `0x00` false (R53). -/
def boolValue (b : Bool) : Byte := if b then 0x01#8 else 0x00#8

end Sys2Proof.Machine
end

