-- ==== Sys2Proof/Machine/Ops.lean ====
section
/-! DEFINITION. The operations the meanings share: acceptance, the operand checks, completing with a response,
taking a fault, and reset, which is the only way out of one. -/

namespace Sys2Proof.Machine

/-- Nothing is answered on the command port at this edge: `rsp_valid` is 0 (spec/20_memory.md R32). -/
def noResponse (s : State) : State := s.withRsp none

/-- Acceptance (R31, spec/60_exceptions.md R115): a command is performed only while `FAULT == 0`; presented to a
HALTED block it has no effect and gets no response. -/
def accept (s : State) (body : Out) : Out :=
  if s.fault = 0b00#2 then body else .next (noResponse s)

/-- TAKING A FAULT, `raise F` (spec/60_exceptions.md R113): FAULT and the response get the cause's code, the value is
zero, no data register changes, nothing is saved and control goes nowhere. -/
def raiseFault (cause : Cause) (s : State) : Out :=
  .next ((s.withFault cause.code).withRsp (some ⟨cause.code, 0x00#8⟩))

/-- The reset step (spec/70_reset_and_hazards.md R140), beside `raiseFault` because it is the only exit from HALTED
(R116): there is no return from a fault. The inputs still to come are not the block's and stay (Log 11). -/
def resetRegisters (s : State) : State :=
  { dir := 0x00#8, out := 0x00#8, inp := 0x00#8, fault := 0b00#2, rsp := none, edges := s.edges }

/-- `respond(OK, v)` after the command's register writes (spec/30_encoding.md R53). -/
def complete (value : Byte) (s : State) : Out := .next (s.withRsp (some ⟨statusOk, value⟩))

/-- Check (2) of R60: go on with the selected pin, or raise InvalidPinIndex (spec/60_exceptions.md R111). -/
def requirePin (pin : Byte) (s : State) (body : Pin → Out) : Out :=
  match selectPin pin with
  | some p => body p
  | none => raiseFault .invalidPinIndex s

/-- Check (3) of R60: go on with the bit value, or raise InvalidBitValue (R112). -/
def requireBit (data : Byte) (s : State) (body : Bool → Out) : Out :=
  match bitOperand data with
  | some b => body b
  | none => raiseFault .invalidBitValue s

/-- A command word with a reserved opcode (R59, R117). -/
def illegalCommand (s : State) : Out := accept s (raiseFault .illegalCommand s)

/-- The pins of `m` become outputs (the direction half of every write: R71, R73). -/
def forceOutput (m : Byte) (s : State) : State := s.withDir (setBits m s.dir)

/-- The pins of `m` become inputs (the direction half of every read: R72, R74). -/
def forceInput (m : Byte) (s : State) : State := s.withDir (clearBits m s.dir)

/-- Drive one pin: direction and level in one step (R91, R93; spec/20_memory.md R36). -/
def drivePin (p : Pin) (level : Bool) (s : State) : State :=
  (forceOutput (bitmask p) s).withOut (driveBit p level s.out)

/-- The input-load step of the environment at an edge (R33): all 8 bits of IN, whatever FAULT holds. -/
def loadInput (e : Edge) (s : State) : State := if e.inWe then s.withInp e.inD else s

/-- Follow a command's next state with another step of the same edge. -/
def andThen (o : Out) (f : State → State) : Out :=
  match o with
  | .next s => .next (f s)
  | .fault r => .fault r
  | .refused r => .refused r

end Sys2Proof.Machine
end

