-- ==== Sys2Proof/Machine/Direction.lean ====
section
/-! DEFINITION. The direction commands (spec/40_direction_ops.md): they write DIR and nothing else (R70). -/

namespace Sys2Proof.Machine

/-- `setPortOutput()` (R71). -/
def execSetPortOutput (s : State) : Out :=
  accept s (complete 0x00#8 (forceOutput Config.windowMask s))

/-- `setPortInput()` (R72). -/
def execSetPortInput (s : State) : Out :=
  accept s (complete 0x00#8 (forceInput Config.windowMask s))

/-- `setPinOutput(pin)` (R73). -/
def execSetPinOutput (pin : Byte) (s : State) : Out :=
  accept s (requirePin pin s fun p => complete (boolValue true) (forceOutput (bitmask p) s))

/-- `setPinInput(pin)` (R74). -/
def execSetPinInput (pin : Byte) (s : State) : Out :=
  accept s (requirePin pin s fun p => complete (boolValue true) (forceInput (bitmask p) s))

end Sys2Proof.Machine
end

