-- ==== Sys2Proof/Machine/PinAccess.lean ====
section
/-! DEFINITION. The pin-level access commands (spec/42_pin_access_ops.md): one bit, selected by a pin (R90). -/

namespace Sys2Proof.Machine

/-- `write(pin, data)` (R91): the data operand is a boolean, so no bit-value check. -/
def execWrite (pin data : Byte) (s : State) : Out :=
  accept s (requirePin pin s fun p => complete 0x00#8 (drivePin p (boolOperand data) s))

/-- `read(pin)` (R92): the sensed bit, coerced to a boolean. -/
def execRead (pin : Byte) (s : State) : Out :=
  accept s (requirePin pin s fun p =>
    complete (boolValue (bitAt p s.inp != 0x00#8)) (forceInput (bitmask p) s))

/-- `writeInt(pin, data)` (R93): the pin is checked first, then the bit value, then both registers are written. -/
def execWriteInt (pin data : Byte) (s : State) : Out :=
  accept s (requirePin pin s fun p => requireBit data s fun level => complete 0x00#8 (drivePin p level s))

/-- `readInt(pin)` (R94): the sensed bit as exactly 0 or 1. -/
def execReadInt (pin : Byte) (s : State) : Out :=
  accept s (requirePin pin s fun p => complete (bitAt p s.inp) (forceInput (bitmask p) s))

end Sys2Proof.Machine
end

