-- ==== Sys2Proof/Machine/PortAccess.lean ====
section
/-! DEFINITION. The port-level access commands (spec/41_port_access_ops.md): the whole window at once (R80). -/

namespace Sys2Proof.Machine

/-- `writePort(data)` (R81). -/
def execWritePort (data : Byte) (s : State) : Out :=
  accept s (complete 0x00#8 ((forceOutput Config.windowMask s).withOut (replaceWindow data s.out)))

/-- `readPort()` (R82). -/
def execReadPort (s : State) : Out :=
  accept s (complete (window s.inp) (forceInput Config.windowMask s))

end Sys2Proof.Machine
end

