-- ==== Sys2Proof/Machine/Dispatch.lean ====
section
/-! DEFINITION. One arm per command of spec/opcode_table.json, each one call of its meaning. -/

namespace Sys2Proof.Machine

def exec (i : Instr) (s : State) : Host.Outcome State Fault Refusal :=
  match i with
  | .setPortOutput => Sys2Proof.Machine.execSetPortOutput s
  | .setPortInput => Sys2Proof.Machine.execSetPortInput s
  | .setPinOutput pin => Sys2Proof.Machine.execSetPinOutput pin s
  | .setPinInput pin => Sys2Proof.Machine.execSetPinInput pin s
  | .writePort data => Sys2Proof.Machine.execWritePort data s
  | .readPort => Sys2Proof.Machine.execReadPort s
  | .write pin data => Sys2Proof.Machine.execWrite pin data s
  | .read pin => Sys2Proof.Machine.execRead pin s
  | .writeInt pin data => Sys2Proof.Machine.execWriteInt pin data s
  | .readInt pin => Sys2Proof.Machine.execReadInt pin s

end Sys2Proof.Machine
end

