-- ==== Sys2Proof/Machine/Port.lean ====
section
/-! DEFINITION. What one clock edge does: the command port, the input-load port and reset together
(spec/20_memory.md R31, R33, R40; spec/70_reset_and_hazards.md R140). -/

namespace Sys2Proof.Machine

/-- An edge at which no input is active. -/
def Edge.idle : Edge := { rst := false, cmdValid := false, cmd := 0#24, inWe := false, inD := 0#8 }

/-- An edge at which the host presents a command and nothing else happens: the step `Cmd(w)` (R31). -/
def Edge.command (w : CommandWord) : Edge := { Edge.idle with cmdValid := true, cmd := w }

/-- An edge at which the environment loads a value and nothing else happens: the step `Load(v)` (R33). -/
def Edge.load (v : Byte) : Edge := { Edge.idle with inWe := true, inD := v }

/-- An edge at which reset is applied (R140). -/
def Edge.reset : Edge := { Edge.idle with rst := true }

/-- The inputs of the next edge; past the listed ones no input is active (Log 3). -/
def frontEdge (s : State) : Edge := s.edges.headD Edge.idle

/-- The state once the next edge's inputs are taken from the list. -/
def dropEdge (s : State) : State := s.withEdges s.edges.tail

/-- The word on the command port decoded and performed; a reserved opcode raises IllegalCommand (R59, R60). Both
check acceptance (R31). -/
def runWord (w : CommandWord) (s : State) : Out :=
  match decode w with
  | .ok i => exec i s
  | .error _ => illegalCommand s

/-- The command step of an edge: the word presented, if one is. -/
def commandPort (e : Edge) (s : State) : Out :=
  if e.cmdValid then runWord e.cmd s else .next (noResponse s)

/-- One edge (R40): with `rst` the reset step and nothing else; otherwise the command step, which sees the old IN,
then the input load. -/
def clockEdge (e : Edge) (s : State) : Out :=
  if e.rst then .next (resetRegisters s) else andThen (commandPort e s) (loadInput e)

/-- The state in which the next edge presents `w` and the block is RUNNING, so that the word is accepted (R31). -/
def presentNext (w : CommandWord) (s : State) : State :=
  (s.withFault 0b00#2).withEdges (Edge.command w :: s.edges)

end Sys2Proof.Machine
end

