-- ==== Sys2Proof/Machine/Step.lean ====
section
/-! DEFINITION. One step of the machine: one rising edge of the clock. -/

namespace Sys2Proof.Machine

/-- Take the next edge's inputs and do what the edge does. -/
def step (s : State) : Host.Outcome State Fault Refusal := clockEdge (frontEdge s) (dropEdge s)

/-- The opcode-table word presented on the command port at the next edge (Log 1). -/
def State.withFetchWord (s : State) (nbits w : Nat) : State := presentNext (tableWord nbits w) s

end Sys2Proof.Machine
end

