-- ==== Sys2Proof/WellFormed.lean ====
section
/-! DEFINITION. Two checks. `Call.wellFormed`: a textual command that can be encoded (spec/30_encoding.md R62, R63).
`Instr.inDomain`: the arguments are inside their domains, which the host owes the block
(spec/70_reset_and_hazards.md R146). Encodability needs no check on `Instr`: its operand types are the 8-bit fields,
and every value of them is an encoding (R59: no encoding is left undefined). -/

namespace Sys2Proof

/-- The format of each operation (R51). -/
def Operation.format : Operation → Format
  | .setPortOutput => .formatN
  | .setPortInput => .formatN
  | .setPinOutput => .formatP
  | .setPinInput => .formatP
  | .writePort => .formatD
  | .readPort => .formatN
  | .write => .formatPD
  | .read => .formatP
  | .writeInt => .formatPD
  | .readInt => .formatP

/-- How many operands a format takes (R52, R62). -/
def Format.arity (f : Format) : Nat := f.usesPin.toNat + f.usesData.toNat

/-- A numeral in 0..255 (R62). -/
def Operand.isByteNumeral : Operand → Bool
  | .numeral n => decide (n < 256)
  | .on | .off | .trueName | .falseName => false

/-- An operand that may stand as the data of `write`: a numeral in 0..255 or a name of R63. -/
def Operand.isByteOrName : Operand → Bool
  | .numeral n => decide (n < 256)
  | .on | .off | .trueName | .falseName => true

/-- A call the assembler can encode (R62, R63): as many operands as the format takes, each numeral in 0..255, a
name only as the data of `write`. -/
def Call.wellFormed (c : Call) : Bool :=
  c.args.length == c.name.format.arity &&
    match c.name, c.args with
    | .write, [p, d] => p.isByteNumeral && d.isByteOrName
    | _, args => args.all Operand.isByteNumeral

/-- The pin operand is one of 0..4 (R55, R146). -/
def pinInDomain (pin : Byte) : Bool := decide (pin.toNat < Config.npins)

/-- The arguments are inside their domains (R146): the command will not fault. -/
def Instr.inDomain : Instr → Bool
  | .setPortOutput => true
  | .setPortInput => true
  | .setPinOutput pin => pinInDomain pin
  | .setPinInput pin => pinInDomain pin
  | .writePort _ => true
  | .readPort => true
  | .write pin _ => pinInDomain pin
  | .read pin => pinInDomain pin
  | .writeInt pin data => pinInDomain pin && decide (data.toNat < 2)
  | .readInt pin => pinInDomain pin

end Sys2Proof
end

