-- ==== Sys2Proof/Machine/Assembler.lean ====
section
/-! DEFINITION. The textual form of commands (spec/30_encoding.md R62, R63): from the characters of a line to the
command word, and the printed form of a command. It belongs to the host side; the block sees words only. -/

namespace Sys2Proof.Machine

/-- The operations by name, letter for letter as the source spells them (R62). -/
def operationNames : List (List Char × Operation) :=
  [("setPortOutput".toList, .setPortOutput), ("setPortInput".toList, .setPortInput),
   ("setPinOutput".toList, .setPinOutput), ("setPinInput".toList, .setPinInput),
   ("writePort".toList, .writePort), ("readPort".toList, .readPort),
   ("write".toList, .write), ("read".toList, .read),
   ("writeInt".toList, .writeInt), ("readInt".toList, .readInt)]

/-- The operand names of R63. -/
def operandNames : List (List Char × Operand) :=
  [("ON".toList, .on), ("OFF".toList, .off), ("true".toList, .trueName), ("false".toList, .falseName)]

/-- DESIGN CHOICE (Log 9): the white space allowed around a line, a name and an operand. -/
def isBlank (c : Char) : Bool := c == ' ' || c == '\t' || c == '\r'

/-- A text without the white space at its ends. -/
def trim (cs : List Char) : List Char := ((cs.dropWhile isBlank).reverse.dropWhile isBlank).reverse

/-- The parts of a text between the separators. -/
def splitAtChar (sep : Char) : List Char → List (List Char)
  | [] => [[]]
  | c :: cs =>
    if c = sep then [] :: splitAtChar sep cs
    else match splitAtChar sep cs with
      | [] => [[c]]
      | part :: parts => (c :: part) :: parts

/-- The value of a digit of base up to 16; hexadecimal letters in either case (Log 9). -/
def digitValue (c : Char) : Option Nat :=
  if '0'.toNat ≤ c.toNat ∧ c.toNat ≤ '9'.toNat then some (c.toNat - '0'.toNat)
  else if 'a'.toNat ≤ c.toNat ∧ c.toNat ≤ 'f'.toNat then some (c.toNat - 'a'.toNat + 10)
  else if 'A'.toNat ≤ c.toNat ∧ c.toNat ≤ 'F'.toNat then some (c.toNat - 'A'.toNat + 10)
  else none

/-- The value of digits in a base, after the value `acc` of the digits before them. -/
def digitsValue (base : Nat) : Nat → List Char → Option Nat
  | acc, [] => some acc
  | acc, c :: cs =>
    match digitValue c with
    | some d => if d < base then digitsValue base (base * acc + d) cs else none
    | none => none

/-- An unsigned numeral in decimal, `0x` hexadecimal or `0b` binary (R62). -/
def numeralValue : List Char → Option Nat
  | '0' :: 'x' :: c :: cs => digitsValue 16 0 (c :: cs)
  | '0' :: 'b' :: c :: cs => digitsValue 2 0 (c :: cs)
  | c :: cs => digitsValue 10 0 (c :: cs)
  | [] => none

/-- One operand: a name of R63 or a numeral. -/
def parseOperand (cs : List Char) : Except AsmError Operand :=
  match operandNames.lookup (trim cs) with
  | some a => .ok a
  | none =>
    match numeralValue (trim cs) with
    | some n => .ok (.numeral n)
    | none => .error .malformedOperand

/-- The operands between the commas. -/
def parseOperands : List (List Char) → Except AsmError (List Operand)
  | [] => .ok []
  | part :: parts =>
    match parseOperand part, parseOperands parts with
    | .ok a, .ok as => .ok (a :: as)
    | .error e, _ => .error e
    | _, .error e => .error e

/-- `name(operand, ...)` as a call (R62). -/
def parseCall (cs : List Char) : Except AsmError Call :=
  match cs.dropWhile (· != '('), cs.reverse with
  | '(' :: _, ')' :: _ =>
    match operationNames.lookup (trim (cs.takeWhile (· != '('))) with
    | none => .error .unknownOperation
    | some name =>
      let inner := ((cs.dropWhile (· != '(')).drop 1).dropLast
      match (if trim inner = [] then .ok [] else parseOperands (splitAtChar ',' inner)) with
      | .ok args => .ok { name := name, args := args }
      | .error e => .error e
  | _, _ => .error .malformedLine

/-- A numeral as an 8-bit operand field (R62: an operand outside 0..255 cannot be encoded). -/
def byteOperand : Operand → Except AsmError Byte
  | .numeral n => if n < 256 then .ok (BitVec.ofNat 8 n) else .error .operandTooLarge
  | .on | .off | .trueName | .falseName => .error .nameNotAllowed

/-- The data operand of `write`: a numeral, or `ON` and `true` for 1, `OFF` and `false` for 0 (R63). -/
def writeOperand : Operand → Except AsmError Byte
  | .numeral n => byteOperand (.numeral n)
  | .on => .ok 0x01#8
  | .off => .ok 0x00#8
  | .trueName => .ok 0x01#8
  | .falseName => .ok 0x00#8

/-- A call as a command (R62, R63). -/
def assembleCall (c : Call) : Except AsmError Instr :=
  match c.name, c.args with
  | .setPortOutput, [] => .ok .setPortOutput
  | .setPortInput, [] => .ok .setPortInput
  | .setPinOutput, [p] => (byteOperand p).map .setPinOutput
  | .setPinInput, [p] => (byteOperand p).map .setPinInput
  | .writePort, [d] => (byteOperand d).map .writePort
  | .readPort, [] => .ok .readPort
  | .write, [p, d] =>
    match byteOperand p, writeOperand d with
    | .ok pin, .ok data => .ok (.write pin data)
    | .error e, _ => .error e
    | _, .error e => .error e
  | .read, [p] => (byteOperand p).map .read
  | .writeInt, [p, d] =>
    match byteOperand p, byteOperand d with
    | .ok pin, .ok data => .ok (.writeInt pin data)
    | .error e, _ => .error e
    | _, .error e => .error e
  | .readInt, [p] => (byteOperand p).map .readInt
  | _, _ => .error .wrongOperandCount

/-- One line: `;` starts a comment that runs to the end of the line; a line that is then blank holds no command
(R62). -/
def assembleLine (line : List Char) : Except AsmError (Option CommandWord) :=
  match trim (line.takeWhile (· != ';')) with
  | [] => .ok none
  | c :: cs =>
    match parseCall (c :: cs) with
    | .error e => .error e
    | .ok call =>
      match assembleCall call with
      | .ok i => .ok (some (encode i))
      | .error e => .error e

/-- The words of the lines, in order. -/
def assembleLines : List (List Char) → Except AsmError (List CommandWord)
  | [] => .ok []
  | line :: lines =>
    match assembleLine line, assembleLines lines with
    | .ok (some w), .ok ws => .ok (w :: ws)
    | .ok none, .ok ws => .ok ws
    | .error e, _ => .error e
    | _, .error e => .error e

/-- A program: a sequence of commands, one per line (R62). -/
def assemble (text : List Char) : Except AsmError (List CommandWord) := assembleLines (splitAtChar '\n' text)

/-- A hexadecimal digit. -/
def hexDigit (v : BitVec 4) : Char :=
  if v.toNat < 10 then Char.ofNat ('0'.toNat + v.toNat) else Char.ofNat ('A'.toNat + (v.toNat - 10))

/-- An operand field as a `0x` numeral of two digits. -/
def hexNumeral (b : Byte) : List Char := ['0', 'x', hexDigit (b.extractLsb' 4 4), hexDigit (b.extractLsb' 0 4)]

/-- `name(operands)` as text. -/
def printCall (name : String) (operands : List Char) : List Char := name.toList ++ '(' :: operands ++ [')']

/-- A command in the textual form (R62), operands in hexadecimal. -/
def printInstr : Instr → List Char
  | .setPortOutput => printCall "setPortOutput" []
  | .setPortInput => printCall "setPortInput" []
  | .setPinOutput pin => printCall "setPinOutput" (hexNumeral pin)
  | .setPinInput pin => printCall "setPinInput" (hexNumeral pin)
  | .writePort data => printCall "writePort" (hexNumeral data)
  | .readPort => printCall "readPort" []
  | .write pin data => printCall "write" (hexNumeral pin ++ ',' :: ' ' :: hexNumeral data)
  | .read pin => printCall "read" (hexNumeral pin)
  | .writeInt pin data => printCall "writeInt" (hexNumeral pin ++ ',' :: ' ' :: hexNumeral data)
  | .readInt pin => printCall "readInt" (hexNumeral pin)

end Sys2Proof.Machine
end

