-- ==== Sys2Proof/Machine/Transaction.lean ====
section
/-! DEFINITION. The transaction level (spec/20_memory.md): the steps of the three agents on the architectural tuple,
in one total order (R31, R33, R39, R40). It is written from the access table of R38 and the check ladder of R60 over
the raw fields of the word, apart from the decoder and the meanings, so that statements can compare the two. -/

namespace Sys2Proof.Machine

/-- One row of R38's access table: which bits of DIR are forced and to what, which bits of OUT are written and with
what, which bits of IN are returned, and what is returned apart from IN. -/
structure Access where
  dirMask : Byte
  toOutput : Bool
  outMask : Byte
  outBits : Byte
  inMask : Byte
  inShift : Nat
  constant : Byte
deriving DecidableEq, Repr

/-- R38, row by row, for fields that passed the checks. -/
def accessOf (op pin data : Byte) : Access :=
  let bit : Byte := 0x01#8 <<< pin.toNat
  match op with
  | 0x01#8 => ⟨0x1F#8, true, 0x00#8, 0x00#8, 0x00#8, 0, 0x00#8⟩
  | 0x02#8 => ⟨0x1F#8, false, 0x00#8, 0x00#8, 0x00#8, 0, 0x00#8⟩
  | 0x03#8 => ⟨bit, true, 0x00#8, 0x00#8, 0x00#8, 0, 0x01#8⟩
  | 0x04#8 => ⟨bit, false, 0x00#8, 0x00#8, 0x00#8, 0, 0x01#8⟩
  | 0x05#8 => ⟨0x1F#8, true, 0x1F#8, data, 0x00#8, 0, 0x00#8⟩
  | 0x06#8 => ⟨0x1F#8, false, 0x00#8, 0x00#8, 0x1F#8, 0, 0x00#8⟩
  | 0x07#8 => ⟨bit, true, bit, if data = 0x00#8 then 0x00#8 else 0xFF#8, 0x00#8, 0, 0x00#8⟩
  | 0x08#8 => ⟨bit, false, 0x00#8, 0x00#8, bit, pin.toNat, 0x00#8⟩
  | 0x09#8 => ⟨bit, true, bit, if data = 0x01#8 then 0xFF#8 else 0x00#8, 0x00#8, 0, 0x00#8⟩
  | 0x0A#8 => ⟨bit, false, 0x00#8, 0x00#8, bit, pin.toNat, 0x00#8⟩
  | _ => ⟨0x00#8, false, 0x00#8, 0x00#8, 0x00#8, 0, 0x00#8⟩

/-- The opcodes whose format uses `PIN` (spec/30_encoding.md R51). -/
def pinOpcodes : List Byte := [0x03#8, 0x04#8, 0x07#8, 0x08#8, 0x09#8, 0x0A#8]

/-- The code an accepted word faults with, 0 where it does not: R60's ladder, which is the priority of
spec/60_exceptions.md R114. -/
def faultLadder (op pin data : Byte) : FaultCode :=
  if op = 0x00#8 ∨ 11 ≤ op.toNat then 0b11#2
  else if op ∈ pinOpcodes ∧ 5 ≤ pin.toNat then 0b01#2
  else if op = 0x09#8 ∧ 2 ≤ data.toNat then 0b10#2
  else 0b00#2

/-- The registers after an access. -/
def Access.apply (a : Access) (r : Registers) : Registers :=
  { r with
    dir := if a.toOutput then r.dir ||| a.dirMask else r.dir &&& ~~~a.dirMask
    out := (r.out &&& ~~~a.outMask) ||| (a.outBits &&& a.outMask) }

/-- The value an access returns. -/
def Access.value (a : Access) (r : Registers) : Byte := ((r.inp &&& a.inMask) >>> a.inShift) ||| a.constant

/-- A step of one agent (R31, R33, R140). -/
inductive Transaction where
  | cmd (w : CommandWord)
  | load (v : Byte)
  | reset
deriving DecidableEq, Repr

/-- The registers after a step of one agent; the host has no step while HALTED, so its word then changes nothing. -/
def Transaction.apply (t : Transaction) (r : Registers) : Registers :=
  match t with
  | .cmd w =>
    if r.fault ≠ 0b00#2 then r
    else if faultLadder (opField w) (pinField w) (dataField w) ≠ 0b00#2 then
      { r with fault := faultLadder (opField w) (pinField w) (dataField w) }
    else (accessOf (opField w) (pinField w) (dataField w)).apply r
  | .load v => { r with inp := v }
  | .reset => ⟨0x00#8, 0x00#8, 0x00#8, 0b00#2⟩

/-- What a word presented to the block is answered: nothing while HALTED (R115), the cause and zero on a fault
(R113), OK and the access's value otherwise (R53). -/
def answer (w : CommandWord) (r : Registers) : Option Response :=
  if r.fault ≠ 0b00#2 then none
  else if faultLadder (opField w) (pinField w) (dataField w) ≠ 0b00#2 then
    some ⟨faultLadder (opField w) (pinField w) (dataField w), 0x00#8⟩
  else some ⟨0b00#2, (accessOf (opField w) (pinField w) (dataField w)).value r⟩

/-- The steps one edge performs, in their order (R40). -/
def Edge.transactions (e : Edge) : List Transaction :=
  if e.rst then [.reset]
  else (if e.cmdValid then [.cmd e.cmd] else []) ++ (if e.inWe then [.load e.inD] else [])

/-- The registers after a sequence of steps: the fold of the step functions (R39). -/
def foldTransactions (ts : List Transaction) (r : Registers) : Registers :=
  ts.foldl (fun r t => t.apply r) r

end Sys2Proof.Machine
end

