-- ==== Sys2Proof/Safety.lean ====
section
/-! DEFINITION. The terms claims use: RUNNING and HALTED, the end of a run, the high-bit invariant, and relations
between states. -/

namespace Sys2Proof.Machine

/-- The state after `k` edges. -/
def run : Nat → State → Out
  | 0, s => .next s
  | k + 1, s =>
    match step s with
    | .next t => run k t
    | .fault r => .fault r
    | .refused r => .refused r

/-- RUNNING: `FAULT == 0` (spec/00_scope.md section 5.2). -/
def State.running (s : State) : Prop := s.fault = 0b00

/-- Bits 7:5 of DIR and OUT are zero (spec/10_state.md R14). -/
def State.highBitsZero (s : State) : Prop :=
  s.dir &&& Config.highMask = 0#8 ∧ s.out &&& Config.highMask = 0#8

/-- The host has no command left to present (spec/70_reset_and_hazards.md R150). -/
def State.noCommandLeft (s : State) : Bool := s.edges.all fun e => !e.cmdValid

/-- A final state of a run (R150): the host's list is empty and `FAULT == 0`. -/
def State.final (s : State) : Prop := s.noCommandLeft = true ∧ s.running

/-- A run that has gone wrong (R150). -/
def State.goneWrong (s : State) : Prop := ¬s.running

/-- No reset among the edges still to come: the steps of one run (R150). -/
def State.noReset (s : State) : Bool := s.edges.all fun e => !e.rst

/-- Two edges alike in every signal that carries meaning: the command word only while `cmd_valid` (spec/20_memory.md
R31), the loaded value only while `in_we` (R33) and of it only the window (spec/10_state.md R15). -/
def Edge.sameButHighInput (e f : Edge) : Prop :=
  e.rst = f.rst ∧ e.cmdValid = f.cmdValid ∧ (e.cmdValid = true → e.cmd = f.cmd) ∧ e.inWe = f.inWe ∧
    (e.inWe = true → e.inD &&& Config.windowMask = f.inD &&& Config.windowMask)

/-- The same in everything a host can see through the command port, now or later: all but bits 7:5 of IN, in the
register and in the loads to come (R15). -/
def State.sameButHighInput (s t : State) : Prop :=
  s.dir = t.dir ∧ s.out = t.out ∧ s.inp &&& Config.windowMask = t.inp &&& Config.windowMask ∧
    s.fault = t.fault ∧ s.rsp = t.rsp ∧ List.Forall₂ Edge.sameButHighInput s.edges t.edges

end Sys2Proof.Machine
end

