-- ==== Sys2Proof/Certificates/Slice0/Obligations.lean ====
section
/-! DEFINITION. The statements for the provers. Each docstring names the rule of spec/ it formalises. In all of them
`exec i s` is the command `i` at the state `s`, `step s` one clock edge, and an equation `… = .next t` says that the
machine goes on, in exactly that state: every field it does not name is unchanged. -/

open Sys2Proof Sys2Proof.Machine

/- ## Encoding -/

/-- R50, R51, R62: decoding the canonical word of any command gives the command back. -/
def Obligations.DecodeEncodeAgree : Prop := ∀ i : Instr, decode (encode i) = .ok i

/-- R51, R52, R62: the command read from a word has the word's opcode and the word's operand in each field its format
uses, and zero stands in the canonical word for each field it does not use. -/
def Obligations.DecodedCommandKeepsUsedFields : Prop :=
  ∀ (w : CommandWord) (i : Instr), decode w = .ok i →
    i.opcode = opField w ∧
    encode i = commandWord (opField w) (if i.format.usesPin then pinField w else 0x00#8)
      (if i.format.usesData then dataField w else 0x00#8)

/-- R51, R59: the decoder rejects exactly the words whose opcode is 0x00 or at least 0x0B, by that opcode. -/
def Obligations.DecoderRejectsExactlyReservedOpcodes : Prop :=
  ∀ w : CommandWord,
    (opField w = 0x00#8 ∨ 0x0B ≤ (opField w).toNat → decode w = .error (.reservedOpcode (opField w))) ∧
    (opField w ≠ 0x00#8 ∧ (opField w).toNat < 0x0B → ∃ i, decode w = .ok i)

/-- R52: two words of one opcode that agree in the fields that opcode uses (PIN: formats P and PD; DATA: formats D and
PD) do the same in every state. -/
def Obligations.IgnoredFieldsHaveNoEffect : Prop :=
  ∀ (w v : CommandWord) (s : State), opField w = opField v →
    (opField w ∈ [0x03#8, 0x04#8, 0x07#8, 0x08#8, 0x09#8, 0x0A#8] → pinField w = pinField v) →
    (opField w ∈ [0x05#8, 0x07#8, 0x09#8] → dataField w = dataField v) →
    runWord w s = runWord v s

/-- 30_encoding.md section 8: the spec's encoding examples decode to the commands they stand for. -/
def Obligations.EncodingExamplesDecode : Prop :=
  decode 0x010000#24 = .ok .setPortOutput ∧ decode 0x020000#24 = .ok .setPortInput ∧
  decode 0x030400#24 = .ok (.setPinOutput 0x04#8) ∧ decode 0x040000#24 = .ok (.setPinInput 0x00#8) ∧
  decode 0x0500E0#24 = .ok (.writePort 0xE0#8) ∧ decode 0x060000#24 = .ok .readPort ∧
  decode 0x070301#24 = .ok (.write 0x03#8 0x01#8) ∧ decode 0x080300#24 = .ok (.read 0x03#8) ∧
  decode 0x090201#24 = .ok (.writeInt 0x02#8 0x01#8) ∧ decode 0x0A0300#24 = .ok (.readInt 0x03#8) ∧
  decode 0x000000#24 = .error (.reservedOpcode 0x00#8) ∧ decode 0x0B0000#24 = .error (.reservedOpcode 0x0B#8)

/-- R55: an operand is a valid pin iff it is below 5 as an unsigned number, that is iff bits 7:3 are zero and bits
2:0 are one of 000 to 100, that is iff it is one of 0x00 to 0x04. -/
def Obligations.ValidPinIsBelowFive : Prop :=
  ∀ p : Byte, (validPin p = true ↔ p.toNat < 5) ∧
    (validPin p = true ↔ p.extractLsb' 3 5 = 0b00000#5 ∧
      p.extractLsb' 0 3 ∈ [0b000#3, 0b001#3, 0b010#3, 0b011#3, 0b100#3]) ∧
    (validPin p = true ↔ p ∈ [0x00#8, 0x01#8, 0x02#8, 0x03#8, 0x04#8])

/-- R56, R95: the mask of a pin is one-hot at the pin and inside the window, and the three forms of the selected bit
are equal. -/
def Obligations.PinSelectIsOneHot : Prop :=
  ∀ (p : Pin) (r : Byte),
    (∀ k : Nat, (bitmask p).getLsbD k = decide (k = p.val)) ∧ bitmask p &&& 0xE0#8 = 0x00#8 ∧
    bitAt p r = (if r.getLsbD p.val then 0x01#8 else 0x00#8) ∧
    bitAt p r = (if r &&& bitmask p ≠ 0x00#8 then 0x01#8 else 0x00#8)

/- ## The ten commands -/

/-- R71: setPortOutput, whatever the ignored fields hold, in every RUNNING state sets bits 4:0 of DIR, answers OK with
value 0 and changes nothing else; its canonical word is 0x010000. -/
def Obligations.SetPortOutputMakesAllPinsOutputs : Prop :=
  (∀ w : CommandWord, opField w = 0x01#8 → decode w = .ok .setPortOutput) ∧
  encode .setPortOutput = 0x010000#24 ∧
  ∀ s : State, s.fault = 0b00#2 →
    exec .setPortOutput s = .next { s with dir := s.dir ||| 0x1F#8, rsp := some ⟨0b00#2, 0x00#8⟩ }

/-- R72: setPortInput, whatever the ignored fields hold, in every RUNNING state clears bits 4:0 of DIR, answers OK with
value 0 and changes nothing else; its canonical word is 0x020000. -/
def Obligations.SetPortInputMakesAllPinsInputs : Prop :=
  (∀ w : CommandWord, opField w = 0x02#8 → decode w = .ok .setPortInput) ∧
  encode .setPortInput = 0x020000#24 ∧
  ∀ s : State, s.fault = 0b00#2 →
    exec .setPortInput s = .next { s with dir := s.dir &&& 0xE0#8, rsp := some ⟨0b00#2, 0x00#8⟩ }

/-- R73: setPinOutput with a valid pin sets that pin's direction bit and returns true; with an invalid one it takes
InvalidPinIndex. -/
def Obligations.SetPinOutputMakesOnePinAnOutput : Prop :=
  (∀ w : CommandWord, opField w = 0x03#8 → decode w = .ok (.setPinOutput (pinField w))) ∧
  (∀ pin : Byte, encode (.setPinOutput pin) = 0x03#8 ++ pin ++ 0x00#8) ∧
  ∀ (pin : Byte) (s : State), s.fault = 0b00#2 →
    (pin.toNat < 5 → exec (.setPinOutput pin) s =
      .next { s with dir := s.dir ||| (0x01#8 <<< pin.toNat), rsp := some ⟨0b00#2, 0x01#8⟩ }) ∧
    (5 ≤ pin.toNat → exec (.setPinOutput pin) s =
      .next { s with fault := 0b01#2, rsp := some ⟨0b01#2, 0x00#8⟩ })

/-- R74: setPinInput with a valid pin clears that pin's direction bit and returns true; with an invalid one it takes
InvalidPinIndex. -/
def Obligations.SetPinInputMakesOnePinAnInput : Prop :=
  (∀ w : CommandWord, opField w = 0x04#8 → decode w = .ok (.setPinInput (pinField w))) ∧
  (∀ pin : Byte, encode (.setPinInput pin) = 0x04#8 ++ pin ++ 0x00#8) ∧
  ∀ (pin : Byte) (s : State), s.fault = 0b00#2 →
    (pin.toNat < 5 → exec (.setPinInput pin) s =
      .next { s with dir := s.dir &&& ~~~(0x01#8 <<< pin.toNat), rsp := some ⟨0b00#2, 0x01#8⟩ }) ∧
    (5 ≤ pin.toNat → exec (.setPinInput pin) s =
      .next { s with fault := 0b01#2, rsp := some ⟨0b01#2, 0x00#8⟩ })

/-- R81: writePort makes all five pins outputs and replaces the window of OUT; every data value is legal. -/
def Obligations.WritePortDrivesTheWindow : Prop :=
  (∀ w : CommandWord, opField w = 0x05#8 → decode w = .ok (.writePort (dataField w))) ∧
  (∀ data : Byte, encode (.writePort data) = 0x05#8 ++ 0x00#8 ++ data) ∧
  ∀ (data : Byte) (s : State), s.fault = 0b00#2 →
    exec (.writePort data) s =
      .next { s with
        dir := s.dir ||| 0x1F#8
        out := (s.out &&& 0xE0#8) ||| (data &&& 0x1F#8)
        rsp := some ⟨0b00#2, 0x00#8⟩ }

/-- R82: readPort makes all five pins inputs and returns the window of IN. -/
def Obligations.ReadPortReturnsTheWindow : Prop :=
  (∀ w : CommandWord, opField w = 0x06#8 → decode w = .ok .readPort) ∧
  encode .readPort = 0x060000#24 ∧
  ∀ s : State, s.fault = 0b00#2 →
    exec .readPort s =
      .next { s with dir := s.dir &&& 0xE0#8, rsp := some ⟨0b00#2, s.inp &&& 0x1F#8⟩ }

/-- R91: write with a valid pin makes it an output at the level of the boolean operand; with an invalid one it takes
InvalidPinIndex, whatever the data. -/
def Obligations.WriteDrivesOnePin : Prop :=
  (∀ w : CommandWord, opField w = 0x07#8 → decode w = .ok (.write (pinField w) (dataField w))) ∧
  (∀ pin data : Byte, encode (.write pin data) = 0x07#8 ++ pin ++ data) ∧
  ∀ (pin data : Byte) (s : State), s.fault = 0b00#2 →
    (pin.toNat < 5 → exec (.write pin data) s =
      .next { s with
        dir := s.dir ||| (0x01#8 <<< pin.toNat)
        out := if data ≠ 0x00#8 then s.out ||| (0x01#8 <<< pin.toNat) else s.out &&& ~~~(0x01#8 <<< pin.toNat)
        rsp := some ⟨0b00#2, 0x00#8⟩ }) ∧
    (5 ≤ pin.toNat → exec (.write pin data) s =
      .next { s with fault := 0b01#2, rsp := some ⟨0b01#2, 0x00#8⟩ })

/-- R92: read with a valid pin makes it an input and returns its sensed level; with an invalid one it takes
InvalidPinIndex. -/
def Obligations.ReadReturnsOnePin : Prop :=
  (∀ w : CommandWord, opField w = 0x08#8 → decode w = .ok (.read (pinField w))) ∧
  (∀ pin : Byte, encode (.read pin) = 0x08#8 ++ pin ++ 0x00#8) ∧
  ∀ (pin : Byte) (s : State), s.fault = 0b00#2 →
    (pin.toNat < 5 → exec (.read pin) s =
      .next { s with
        dir := s.dir &&& ~~~(0x01#8 <<< pin.toNat)
        rsp := some ⟨0b00#2, if s.inp.getLsbD pin.toNat then 0x01#8 else 0x00#8⟩ }) ∧
    (5 ≤ pin.toNat → exec (.read pin) s =
      .next { s with fault := 0b01#2, rsp := some ⟨0b01#2, 0x00#8⟩ })

/-- R93: writeInt checks the pin, then the bit value, then drives the pin; either fault leaves DIR and OUT as they
were. -/
def Obligations.WriteIntDrivesOnePin : Prop :=
  (∀ w : CommandWord, opField w = 0x09#8 → decode w = .ok (.writeInt (pinField w) (dataField w))) ∧
  (∀ pin data : Byte, encode (.writeInt pin data) = 0x09#8 ++ pin ++ data) ∧
  ∀ (pin data : Byte) (s : State), s.fault = 0b00#2 →
    (pin.toNat < 5 → data = 0x00#8 ∨ data = 0x01#8 → exec (.writeInt pin data) s =
      .next { s with
        dir := s.dir ||| (0x01#8 <<< pin.toNat)
        out := if data = 0x01#8 then s.out ||| (0x01#8 <<< pin.toNat) else s.out &&& ~~~(0x01#8 <<< pin.toNat)
        rsp := some ⟨0b00#2, 0x00#8⟩ }) ∧
    (pin.toNat < 5 → data ≠ 0x00#8 ∧ data ≠ 0x01#8 → exec (.writeInt pin data) s =
      .next { s with fault := 0b10#2, rsp := some ⟨0b10#2, 0x00#8⟩ }) ∧
    (5 ≤ pin.toNat → exec (.writeInt pin data) s =
      .next { s with fault := 0b01#2, rsp := some ⟨0b01#2, 0x00#8⟩ })

/-- R94: readInt with a valid pin makes it an input and returns its sensed level as exactly 0 or 1; with an invalid
one it takes InvalidPinIndex. -/
def Obligations.ReadIntReturnsOnePin : Prop :=
  (∀ w : CommandWord, opField w = 0x0A#8 → decode w = .ok (.readInt (pinField w))) ∧
  (∀ pin : Byte, encode (.readInt pin) = 0x0A#8 ++ pin ++ 0x00#8) ∧
  ∀ (pin : Byte) (s : State), s.fault = 0b00#2 →
    (pin.toNat < 5 → exec (.readInt pin) s =
      .next { s with
        dir := s.dir &&& ~~~(0x01#8 <<< pin.toNat)
        rsp := some ⟨0b00#2, if s.inp.getLsbD pin.toNat then 0x01#8 else 0x00#8⟩ }) ∧
    (5 ≤ pin.toNat → exec (.readInt pin) s =
      .next { s with fault := 0b01#2, rsp := some ⟨0b01#2, 0x00#8⟩ })

/-- R91, 95_test_vectors.md section 2.4: write is writeInt of the coerced operand, in every state and for every pin,
the invalid ones included. -/
def Obligations.WriteIsWriteIntOfTheBoolean : Prop :=
  ∀ (pin data : Byte) (s : State),
    exec (.write pin data) s = exec (.writeInt pin (if data = 0x00#8 then 0x00#8 else 0x01#8)) s

/-- R92: read has the same next state and response as readInt, in every state and for every pin. -/
def Obligations.ReadIsReadInt : Prop :=
  ∀ (pin : Byte) (s : State), exec (.read pin) s = exec (.readInt pin) s

/-- R18: the direction a pin has after each command that does not fault. -/
def Obligations.PinDirectionTransitions : Prop :=
  ∀ (i : Instr) (p : Pin) (s : State), s.fault = 0b00#2 → i.inDomain = true →
    ∃ t, exec i s = .next t ∧ t.dir.getLsbD p.val =
      match i with
      | .setPortOutput => true
      | .setPortInput => false
      | .setPinOutput pin => if p.val = pin.toNat then true else s.dir.getLsbD p.val
      | .setPinInput pin => if p.val = pin.toNat then false else s.dir.getLsbD p.val
      | .writePort _ => true
      | .readPort => false
      | .write pin _ => if p.val = pin.toNat then true else s.dir.getLsbD p.val
      | .read pin => if p.val = pin.toNat then false else s.dir.getLsbD p.val
      | .writeInt pin _ => if p.val = pin.toNat then true else s.dir.getLsbD p.val
      | .readInt pin => if p.val = pin.toNat then false else s.dir.getLsbD p.val

/-- R38: a command that does not fault leaves, performed twice in a row with no step between, the state and the
response it leaves performed once. -/
def Obligations.CommandsAreIdempotent : Prop :=
  ∀ (i : Instr) (s : State), s.fault = 0b00#2 → i.inDomain = true →
    ∃ t, exec i s = .next t ∧ exec i t = .next t

/-- R53: every accepted command is answered, with FAULT's new value as its status; the value has bits 7:5 zero, is 0
or 1 for every command but readPort, 0 for a fault, and 1 for a direction command on a pin that did not fault. -/
def Obligations.ResponseValueLaw : Prop :=
  ∀ (i : Instr) (s : State), s.fault = 0b00#2 →
    ∃ (t : State) (v : Byte), exec i s = .next t ∧ t.rsp = some ⟨t.fault, v⟩ ∧ v &&& 0xE0#8 = 0x00#8 ∧
      (i ≠ .readPort → v = 0x00#8 ∨ v = 0x01#8) ∧ (t.fault ≠ 0b00#2 → v = 0x00#8) ∧
      (t.fault = 0b00#2 → i.opcode = 0x03#8 ∨ i.opcode = 0x04#8 → v = 0x01#8) ∧
      (t.fault = 0b00#2 → i.opcode ∈ [0x01#8, 0x02#8, 0x05#8, 0x07#8, 0x09#8] → v = 0x00#8)

/-- R14: no command, in any state whatever, changes bit 7, 6 or 5 of DIR or of OUT. -/
def Obligations.CommandsKeepHighBits : Prop :=
  ∀ (w : CommandWord) (s : State), ∃ t, runWord w s = .next t ∧
    t.dir &&& 0xE0#8 = s.dir &&& 0xE0#8 ∧ t.out &&& 0xE0#8 = s.out &&& 0xE0#8

/-- R74, 40_direction_ops.md (the source's pair property), R70: after set then clear the pin's direction bit is 0, after
clear then set it is 1; every other bit of DIR, and OUT, IN and FAULT, are those of the state before the pair, and the
second command alone leads to the same state. -/
def Obligations.LastDirectionCommandWins : Prop :=
  ∀ (pin : Byte) (s : State), s.fault = 0b00#2 → pin.toNat < 5 →
    (∃ t u, exec (.setPinOutput pin) s = .next t ∧ exec (.setPinInput pin) t = .next u ∧
      exec (.setPinInput pin) s = .next u ∧ u.dir.getLsbD pin.toNat = false ∧
      (∀ k : Nat, k ≠ pin.toNat → u.dir.getLsbD k = s.dir.getLsbD k) ∧
      u.out = s.out ∧ u.inp = s.inp ∧ u.fault = s.fault) ∧
    (∃ t u, exec (.setPinInput pin) s = .next t ∧ exec (.setPinOutput pin) t = .next u ∧
      exec (.setPinOutput pin) s = .next u ∧ u.dir.getLsbD pin.toNat = true ∧
      (∀ k : Nat, k ≠ pin.toNat → u.dir.getLsbD k = s.dir.getLsbD k) ∧
      u.out = s.out ∧ u.inp = s.inp ∧ u.fault = s.fault)

/-- R143: after write then read of one pin the pin is an input, OUT keeps the written level, and the value returned
is the sensed bit, not the written one. -/
def Obligations.ReadUndrivesTheWrittenPin : Prop :=
  ∀ (pin data : Byte) (s : State), s.fault = 0b00#2 → pin.toNat < 5 →
    ∃ t u, exec (.write pin data) s = .next t ∧ exec (.read pin) t = .next u ∧
      u.dir.getLsbD pin.toNat = false ∧ u.out.getLsbD pin.toNat = decide (data ≠ 0x00#8) ∧ u.out = t.out ∧
      u.rsp = some ⟨0b00#2, if s.inp.getLsbD pin.toNat then 0x01#8 else 0x00#8⟩

/-- R145, R80: readPort after writePort returns the window of IN, whatever was written, and OUT keeps the written
levels. -/
def Obligations.WrittenPortIsNotReadBack : Prop :=
  ∀ (data : Byte) (s : State), s.fault = 0b00#2 →
    ∃ t u, exec (.writePort data) s = .next t ∧ exec .readPort t = .next u ∧
      u.rsp = some ⟨0b00#2, s.inp &&& 0x1F#8⟩ ∧ u.out &&& 0x1F#8 = data &&& 0x1F#8 ∧ u.dir &&& 0x1F#8 = 0x00#8

/- ## Faults -/

/-- R111: exactly the six commands with a pin operand raise InvalidPinIndex, exactly when the pin is at least 5. -/
def Obligations.InvalidPinIndexExactlyOnBadPin : Prop :=
  ∀ (i : Instr) (s : State), s.fault = 0b00#2 →
    ∃ t, exec i s = .next t ∧
      (t.fault = 0b01#2 ↔
        i.opcode ∈ [0x03#8, 0x04#8, 0x07#8, 0x08#8, 0x09#8, 0x0A#8] ∧ 5 ≤ i.pinOperand.toNat)

/-- R112: InvalidBitValue is raised exactly by writeInt with a valid pin and a value other than 0 and 1. -/
def Obligations.InvalidBitValueExactlyOnWriteInt : Prop :=
  ∀ (i : Instr) (s : State), s.fault = 0b00#2 →
    ∃ t, exec i s = .next t ∧
      (t.fault = 0b10#2 ↔ i.opcode = 0x09#8 ∧ i.pinOperand.toNat < 5 ∧ 2 ≤ i.dataOperand.toNat)

/-- R117: an accepted word raises IllegalCommand exactly when its opcode is reserved; it is then handled like the
other faults. -/
def Obligations.IllegalCommandExactlyOnReservedOpcode : Prop :=
  ∀ (w : CommandWord) (s : State), s.fault = 0b00#2 →
    (∃ t, runWord w s = .next t ∧ (t.fault = 0b11#2 ↔ opField w = 0x00#8 ∨ 0x0B ≤ (opField w).toNat)) ∧
    (opField w = 0x00#8 ∨ 0x0B ≤ (opField w).toNat →
      runWord w s = .next { s with fault := 0b11#2, rsp := some ⟨0b11#2, 0x00#8⟩ })

/-- R60, R114: at an edge that presents a word to a RUNNING block, the first condition that holds of the reserved
opcode, the invalid pin and the invalid bit value is the one FAULT gets; where none holds FAULT stays zero. -/
def Obligations.FaultPriorityOnTheWord : Prop :=
  ∀ (s : State) (e : Edge) (es : List Edge), s.edges = e :: es → e.rst = false → e.cmdValid = true →
    s.fault = 0b00#2 →
    ∃ t, step s = .next t ∧ t.fault =
      if opField e.cmd = 0x00#8 ∨ 0x0B ≤ (opField e.cmd).toNat then 0b11#2
      else if opField e.cmd ∈ [0x03#8, 0x04#8, 0x07#8, 0x08#8, 0x09#8, 0x0A#8] ∧ 5 ≤ (pinField e.cmd).toNat then 0b01#2
      else if opField e.cmd = 0x09#8 ∧ 2 ≤ (dataField e.cmd).toNat then 0b10#2
      else 0b00#2

/-- R113: a word that faults changes FAULT and answers the same code with value zero, and changes nothing else. -/
def Obligations.FaultEntryChangesOnlyFault : Prop :=
  ∀ (w : CommandWord) (s t : State), s.fault = 0b00#2 → runWord w s = .next t → t.fault ≠ 0b00#2 →
    t = { s with fault := t.fault, rsp := some ⟨t.fault, 0x00#8⟩ }

/-- R146: a command completes without a fault exactly when its arguments are inside their domains. -/
def Obligations.NoFaultIffArgumentsInDomain : Prop :=
  ∀ (i : Instr) (s : State), s.fault = 0b00#2 →
    ∃ t, exec i s = .next t ∧ (t.fault = 0b00#2 ↔ i.inDomain = true)

/-- R115: a HALTED block is not ready; a command presented to it has no effect and gets no response; DIR, OUT and
FAULT keep their values and IN still follows the loads, at every edge without reset. -/
def Obligations.HaltedBlockAcceptsNothing : Prop :=
  (∀ (i : Instr) (s : State), s.fault ≠ 0b00#2 → exec i s = .next { s with rsp := none }) ∧
  ∀ (s : State) (e : Edge) (es : List Edge), s.edges = e :: es → e.rst = false → s.fault ≠ 0b00#2 →
    cmdReady e s = false ∧ step s = .next { s with inp := if e.inWe then e.inD else s.inp, rsp := none, edges := es }

/-- R115, R116, R150: along every run without a reset, however long, a HALTED block keeps DIR, OUT and FAULT; every
state of the run has gone wrong and none is final. That edges past the listed ones are idle, and so no reset, is the
model's choice (Log 3). -/
def Obligations.HaltedUntilReset : Prop :=
  ∀ (k : Nat) (s : State), s.fault ≠ 0b00#2 → s.noReset = true →
    ∃ t, run k s = .next t ∧ t.dir = s.dir ∧ t.out = s.out ∧ t.fault = s.fault ∧ t.goneWrong ∧ ¬t.final

/-- R13: FAULT changes only at an edge with reset, which clears it, or at one that accepts a command in a RUNNING
state and answers it with the new code. -/
def Obligations.FaultChangesOnlyByCommandOrReset : Prop :=
  ∀ s t : State, step s = .next t → t.fault ≠ s.fault →
    ((frontEdge s).rst = true ∧ t.fault = 0b00#2) ∨
    ((frontEdge s).cmdValid = true ∧ s.fault = 0b00#2 ∧ t.rsp = some ⟨t.fault, 0x00#8⟩)

/- ## State, edges and runs -/

/-- R10 to R13, R140: the registers after reset. -/
def Obligations.ResetStateRegistersAreZero : Prop :=
  State.reset.dir = 0x00#8 ∧ State.reset.out = 0x00#8 ∧ State.reset.inp = 0x00#8 ∧ State.reset.fault = 0b00#2

/-- R140, R40: at an edge with reset, from any state and whatever else is presented, every register gets its reset
value and nothing is answered. That the inputs still to come stay is the model's choice (Log 11). -/
def Obligations.ResetEdgeZeroesEveryRegister : Prop :=
  ∀ (s : State) (e : Edge) (es : List Edge), s.edges = e :: es → e.rst = true →
    step s = .next { dir := 0x00#8, out := 0x00#8, inp := 0x00#8, fault := 0b00#2, rsp := none, edges := es }

/-- R33: an input load alone writes all 8 bits of IN and nothing else, whatever FAULT holds, and gets no response. -/
def Obligations.InputLoadWritesOnlyInput : Prop :=
  ∀ (s : State) (v : Byte) (es : List Edge), s.edges = Edge.load v :: es →
    step s = .next { s with inp := v, rsp := none, edges := es }

/-- 30_encoding.md R60 with 20_memory.md R40: at an edge that presents a word which decodes to a command, step is that
command, at the state with this edge's inputs taken, followed by the edge's input load. -/
def Obligations.StepRunsTheDecodedCommand : Prop :=
  ∀ (s : State) (e : Edge) (es : List Edge) (i : Instr), s.edges = e :: es → e.rst = false → e.cmdValid = true →
    decode e.cmd = .ok i →
    step s = andThen (exec i { s with edges := es })
      (fun t => { t with inp := if e.inWe then e.inD else t.inp })

/-- The model's choice (Log 1): a word placed by withFetchWord is the command the next step performs. -/
def Obligations.PlacedWordIsRunNext : Prop :=
  ∀ (s : State) (nbits w : Nat) (i : Instr), decodeTableWord nbits w = some i →
    step (s.withFetchWord nbits w) = exec i { s with fault := 0b00#2 }

/-- The model's choice (Log 3): past the listed inputs no input is active, and an edge changes no register. -/
def Obligations.UnlistedEdgesAreIdle : Prop :=
  ∀ s : State, s.edges = [] → step s = .next { s with rsp := none }

/-- R59, R31, R115 for command words: each one performs a command, takes one of the block's faults, or is not accepted.
That every step of every state then goes on, with nothing that stops the model, is the model's own reading (Log 6,
DEDUCED). That a step takes one edge's inputs from the list is the model's choice (Log 1), at a reset edge too
(Log 11), and so is that it goes on when none is listed (Log 3). -/
def Obligations.EveryStepCompletes : Prop :=
  ∀ s : State, ∃ t, step s = .next t ∧ t.edges = s.edges.tail

/-- R12: IN changes only by reset and by the input load; no command, of any word, writes it. -/
def Obligations.InputWrittenOnlyByLoadOrReset : Prop :=
  ∀ s t : State, step s = .next t →
    t.inp = if (frontEdge s).rst then 0x00#8 else if (frontEdge s).inWe then (frontEdge s).inD else s.inp

/-- R11: OUT changes only by reset and by an accepted writePort, write or writeInt. -/
def Obligations.OutputWrittenOnlyByWritesOrReset : Prop :=
  ∀ s t : State, step s = .next t → t.out ≠ s.out →
    (frontEdge s).rst = true ∨
    (rspValid (frontEdge s) s = true ∧ opField (frontEdge s).cmd ∈ [0x05#8, 0x07#8, 0x09#8])

/-- R32: a step shows a response exactly when the edge presented a command that was accepted. -/
def Obligations.ResponseExactlyWhenAccepted : Prop :=
  ∀ s t : State, step s = .next t → t.rsp.isSome = rspValid (frontEdge s) s

/-- R17: the next registers and the response are functions of the register tuple and the step's own inputs; the
model's field for the last response is read by nothing. -/
def Obligations.NextStateDependsOnRegistersAndInputs : Prop :=
  ∀ s s' : State, s.registers = s'.registers → frontEdge s = frontEdge s' →
    ∃ t t', step s = .next t ∧ step s' = .next t' ∧ t.registers = t'.registers ∧ t.rsp = t'.rsp

/-- R21: the observation outputs are the registers, and halted is FAULT != 0. -/
def Obligations.ObservationOutputsShowRegisters : Prop :=
  ∀ s : State, s.outputs.dirQ = s.dir ∧ s.outputs.outQ = s.out ∧ s.outputs.inQ = s.inp ∧
    s.outputs.faultQ = s.fault ∧ (s.outputs.halted = true ↔ s.fault ≠ 0b00#2)

/-- R40: a command and a load at one edge do what the command's edge and then the load's edge do; the command is
answered from the old IN. -/
def Obligations.SameEdgeIsCommandThenLoad : Prop :=
  ∀ (s : State) (w : CommandWord) (v : Byte) (es : List Edge),
    s.edges = { Edge.command w with inWe := true, inD := v } :: es →
    ∃ t u x, step s = .next t ∧ step { s with edges := Edge.command w :: Edge.load v :: es } = .next u ∧
      step u = .next x ∧ t.registers = x.registers ∧ t.rsp = u.rsp ∧ t.edges = x.edges

/-- R14: at reset bits 7:5 of DIR and OUT are zero. -/
def Obligations.HighBitsZeroAtReset : Prop := State.reset.highBitsZero

/-- R14: every step, of every agent, keeps bits 7:5 of DIR and OUT zero. -/
def Obligations.HighBitsZeroKeptByEveryStep : Prop :=
  ∀ s t : State, s.highBitsZero → step s = .next t → t.highBitsZero

/-- R15: along every run, bits 7:5 of IN, of the register and of every load, reach nothing but IN's own bits 7:5. Nor
does a command word that is not presented (R31) or a value that is not loaded (R33) reach anything. That the inputs of
a run stand in a list (Log 1), that edges past it are idle (Log 3) and that a reset leaves the rest of it (Log 11) is
the model's choice. -/
def Obligations.HighInputBitsNeverLeak : Prop :=
  ∀ (k : Nat) (s s' : State), s.sameButHighInput s' →
    ∃ t t', run k s = .next t ∧ run k s' = .next t' ∧ t.sameButHighInput t'

/-- R53, R113, R115 (written apart from the meanings, in Machine/Transaction.lean): what an edge answers is what the
check ladder and the access table give for the raw word. -/
def Obligations.ResponseMatchesAccessTable : Prop :=
  ∀ s t : State, step s = .next t →
    t.rsp = if (frontEdge s).rst = false ∧ (frontEdge s).cmdValid = true then
      answer (frontEdge s).cmd s.registers else none

/-- R36, R38, R39, R40: the registers after any number of edges are the fold of the agents' steps, each as the check
ladder and the access table give it for the raw word, over the steps the edges perform, in order. That the edges stand in a list of which each step takes one (Log 1), that a
reset leaves the rest of it to be performed (Log 11), and that edges past the list perform no step (Log 3), for k
beyond its length, is the model's choice; that nothing stops the model is its reading (Log 6, DEDUCED). -/
def Obligations.RunsRefineTheTransactionOrder : Prop :=
  ∀ (k : Nat) (s : State), ∃ t, run k s = .next t ∧ t.edges = s.edges.drop k ∧
    t.registers = foldTransactions ((s.edges.take k).flatMap Edge.transactions) s.registers

/- ## The textual form -/

/-- R62, R63: `write(3, ON)` and `writePort(0b11100000)` of 30_encoding.md section 8, the second with a comment, and
`write` with R63's synonym `false` assemble to their words; an operand above 255 and a name as the data of writeInt are
rejected. The name of the error each rejected line gets is the model's choice (Log 9). -/
def Obligations.TextExamplesAssemble : Prop :=
  assembleLine "write(3, ON)".toList = .ok (some 0x070301#24) ∧
  assembleLine "write(3, false)".toList = .ok (some 0x070300#24) ∧
  assembleLine "writePort(0b11100000) ; high bits only".toList = .ok (some 0x0500E0#24) ∧
  assembleLine "writeInt(2, 256)".toList = .error .operandTooLarge ∧
  assembleLine "writeInt(2, ON)".toList = .error .nameNotAllowed

/-- R62, R63: the assembler accepts exactly the calls with as many operands as the format takes, numerals in 0..255,
and the four names as the data of write only. -/
def Obligations.AssemblerAcceptsExactlyWellFormedCalls : Prop :=
  ∀ c : Call, c.wellFormed = true ↔ ∃ i, assembleCall c = .ok i

/-- R62: the printed text of every command, with every operand, assembles to the command's canonical word. That the
printed digits are two upper-case hexadecimal ones, and the blank after the comma, is the model's choice (Log 9). -/
def Obligations.PrintedCommandAssembles : Prop :=
  ∀ i : Instr, assembleLine (printInstr i) = .ok (some (encode i))

/-- R62, R63, 95_test_vectors.md section 3: the text of programs P1 to P5, each with its comments, assembles to the words
the spec gives beside its lines, in order. The white space and the comment-only lines of these texts are read as Log 9
says (the model's choice). -/
def Obligations.SpecProgramTextsAssemble : Prop :=
  assemble ("write(0, ON)        ; 0x070001\n" ++
      "write(0, OFF)       ; 0x070000\n" ++
      "write(0, ON)        ; 0x070001\n" ++
      "setPinInput(0)      ; 0x040000").toList =
    .ok [0x070001#24, 0x070000#24, 0x070001#24, 0x040000#24] ∧
  assemble ("writeInt(4, 1)      ; 0x090401\n" ++
      "writeInt(1, 1)      ; 0x090101\n" ++
      "                    ; environment: load 0x04\n" ++
      "readInt(2)          ; 0x0A0200\n" ++
      "readInt(4)          ; 0x0A0400\n" ++
      "                    ; environment: load 0x14\n" ++
      "readPort()          ; 0x060000\n" ++
      "writePort(0x0A)     ; 0x05000A").toList =
    .ok [0x090401#24, 0x090101#24, 0x0A0200#24, 0x0A0400#24, 0x060000#24, 0x05000A#24] ∧
  assemble ("writePort(0x1F)     ; 0x05001F\n" ++
      "readPort()          ; 0x060000\n" ++
      "                    ; environment: load 0xFF\n" ++
      "readPort()          ; 0x060000\n" ++
      "read(0)             ; 0x080000\n" ++
      "setPortOutput()     ; 0x010000").toList =
    .ok [0x05001F#24, 0x060000#24, 0x060000#24, 0x080000#24, 0x010000#24] ∧
  assemble ("writePort(0x03)     ; 0x050003\n" ++
      "writeInt(2, 1)      ; 0x090201\n" ++
      "writeInt(3, 2)      ; 0x090302   <- InvalidBitValue\n" ++
      "writeInt(4, 1)      ; 0x090401   never accepted\n" ++
      "readPort()          ; 0x060000   never accepted").toList =
    .ok [0x050003#24, 0x090201#24, 0x090302#24, 0x090401#24, 0x060000#24] ∧
  assemble ("setPortOutput()     ; 0x010000\n" ++
      "setPinInput(2)      ; 0x040200\n" ++
      "                    ; environment: load 0xE4\n" ++
      "read(2)             ; 0x080200\n" ++
      "writePort(0x11)     ; 0x050011\n" ++
      "setPortInput()      ; 0x020000\n" ++
      "setPinOutput(0)     ; 0x030000\n" ++
      "write(3, OFF)       ; 0x070300\n" ++
      "readInt(0)          ; 0x0A0000\n" ++
      "readPort()          ; 0x060000\n" ++
      "writeInt(1, 1)      ; 0x090101").toList =
    .ok [0x010000#24, 0x040200#24, 0x080200#24, 0x050011#24, 0x020000#24,
      0x030000#24, 0x070300#24, 0x0A0000#24, 0x060000#24, 0x090101#24]
end

