-- ==== Sys2Proof/Laws/Assembler.lean ====
section
/-! SUPPORT. How the assembler reads printed operands. -/

namespace Sys2Proof.Machine

/-- A hexadecimal digit is none of the characters that separate parts of a line. -/
theorem hexDigit_ne (v : BitVec 4) :
    hexDigit v ≠ ',' ∧ hexDigit v ≠ ';' ∧ hexDigit v ≠ '(' ∧ hexDigit v ≠ ')' ∧ isBlank (hexDigit v) = false := by
  revert v; decide

/-- A printed operand, with or without a blank before it, reads as its number. -/
theorem parseOperand_hexNumeral (b : Byte) :
    parseOperand (hexNumeral b) = .ok (.numeral b.toNat) ∧
      parseOperand (' ' :: hexNumeral b) = .ok (.numeral b.toNat) := by
  revert b; decide +kernel

/-- A number below 256 that came from a byte reads back as the byte. -/
theorem byteOperand_toNat (b : Byte) : byteOperand (.numeral b.toNat) = .ok b := by
  simp [byteOperand, b.isLt]

/-- Text without the separator is one part. -/
theorem splitAtChar_of_notMem {sep : Char} {cs : List Char} (h : sep ∉ cs) : splitAtChar sep cs = [cs] := by
  induction cs with
  | nil => rfl
  | cons c cs ih =>
    simp only [List.mem_cons, not_or] at h
    simp [splitAtChar, ih h.2, Ne.symm h.1]

/-- A part before a separator is the first of the parts. -/
theorem splitAtChar_append {sep : Char} {cs : List Char} (h : sep ∉ cs) (rest : List Char) :
    splitAtChar sep (cs ++ sep :: rest) = cs :: splitAtChar sep rest := by
  induction cs with
  | nil => simp [splitAtChar]
  | cons c cs ih =>
    simp only [List.mem_cons, not_or] at h
    simp [splitAtChar, ih h.2, Ne.symm h.1]

end Sys2Proof.Machine
end

