-- ==== Sys2Proof/Laws/Fields.lean ====
section
/-! SUPPORT. The fields of a word put together from fields. -/

namespace Sys2Proof

/-- Bit k of `{OP, PIN, DATA}` (R50). -/
theorem getLsbD_commandWord (op pin data : Byte) (k : Nat) :
    (commandWord op pin data).getLsbD k =
      if k < 8 then data.getLsbD k else if k < 16 then pin.getLsbD (k - 8) else op.getLsbD (k - 16) := by
  refine (BitVec.getLsbD_append (x := op ++ pin) (y := data) (i := k)).trans ?_
  refine if_congr Iff.rfl rfl ?_
  refine (BitVec.getLsbD_append (x := op) (y := pin) (i := k - 8)).trans ?_
  by_cases h : k < 16
  · rw [if_pos h, if_pos (by omega)]
  · rw [if_neg h, if_neg (by omega), Nat.sub_sub]

@[simp] theorem opField_commandWord (op pin data : Byte) : opField (commandWord op pin data) = op := by
  refine BitVec.eq_of_getLsbD_eq fun k hk => ?_
  rw [opField, BitVec.getLsbD_extractLsb', getLsbD_commandWord, if_neg (by omega), if_neg (by omega)]
  simp [hk]

@[simp] theorem pinField_commandWord (op pin data : Byte) : pinField (commandWord op pin data) = pin := by
  refine BitVec.eq_of_getLsbD_eq fun k hk => ?_
  rw [pinField, BitVec.getLsbD_extractLsb', getLsbD_commandWord, if_neg (by omega), if_pos (by omega)]
  simp [hk]

@[simp] theorem dataField_commandWord (op pin data : Byte) : dataField (commandWord op pin data) = data := by
  refine BitVec.eq_of_getLsbD_eq fun k hk => ?_
  rw [dataField, BitVec.getLsbD_extractLsb', getLsbD_commandWord, if_pos (by omega)]
  simp [hk]

/-- A word is its three fields (R50). -/
theorem commandWord_fields (w : CommandWord) : commandWord (opField w) (pinField w) (dataField w) = w := by
  refine BitVec.eq_of_getLsbD_eq fun k hk => ?_
  rw [getLsbD_commandWord]
  simp only [opField, pinField, dataField, BitVec.getLsbD_extractLsb']
  split
  · simp [*]
  · split
    · rw [decide_eq_true (by omega), Bool.true_and]; congr 1; omega
    · rw [decide_eq_true (by omega), Bool.true_and]; congr 1; omega

end Sys2Proof
end

