-- ==== Sys2Proof/Laws/Operands.lean ====
section
/-! SUPPORT. What each operand form of Machine/Operands.lean can be. -/

namespace Sys2Proof.Machine

/-- A valid pin operand selects the pin of its number (R55). -/
theorem selectPin_of_lt {pin : Byte} (h : pin.toNat < 5) : selectPin pin = some ⟨pin.toNat, h⟩ := dif_pos h

/-- An invalid pin operand selects none (R55). -/
theorem selectPin_of_ge {pin : Byte} (h : 5 ≤ pin.toNat) : selectPin pin = none := dif_neg (Nat.not_lt.mpr h)

/-- What a selected pin is. -/
theorem selectPin_eq_some {pin : Byte} {p : Pin} (h : selectPin pin = some p) :
    pin.toNat < 5 ∧ bitmask p = 0x01#8 <<< pin.toNat ∧ p.val = pin.toNat := by
  unfold selectPin at h
  split at h
  · next hlt => cases h; exact ⟨hlt, rfl, rfl⟩
  · cases h

/-- When no pin is selected. -/
theorem selectPin_eq_none {pin : Byte} (h : selectPin pin = none) : 5 ≤ pin.toNat := by
  unfold selectPin at h
  split at h
  · cases h
  · next hlt => exact Nat.le_of_not_lt hlt

/-- What a valid bit value is (R58). -/
theorem bitOperand_eq_some {data : Byte} {b : Bool} (h : bitOperand data = some b) :
    data.toNat < 2 ∧ b = (data == 0x01#8) := by
  unfold bitOperand at h
  split at h
  · next h0 => cases h; subst h0; decide
  · split at h
    · next h1 => cases h; subst h1; decide
    · cases h

/-- When a bit value is invalid (R58). -/
theorem bitOperand_eq_none {data : Byte} (h : bitOperand data = none) : 2 ≤ data.toNat := by
  unfold bitOperand at h
  split at h
  · cases h
  · split at h
    · cases h
    · next h0 h1 =>
      have h0' : data.toNat ≠ 0 := fun e => h0 (BitVec.eq_of_toNat_eq e)
      have h1' : data.toNat ≠ 1 := fun e => h1 (BitVec.eq_of_toNat_eq e)
      omega

/-- Setting bits of a mask inside the window keeps the high bits (R56, R64). -/
theorem setBits_high (m r : Byte) (h : m &&& 0xE0#8 = 0#8) : setBits m r &&& 0xE0#8 = r &&& 0xE0#8 := by
  unfold setBits
  rw [show (r ||| m) &&& 0xE0#8 = (r &&& 0xE0#8) ||| (m &&& 0xE0#8) by ext k; simp [Bool.and_or_distrib_right], h]
  simp

/-- Clearing bits of a mask inside the window keeps the high bits. -/
theorem clearBits_high (m r : Byte) (h : m &&& 0xE0#8 = 0#8) : clearBits m r &&& 0xE0#8 = r &&& 0xE0#8 := by
  refine BitVec.eq_of_getLsbD_eq fun k hk => ?_
  have hm : (m &&& 0xE0#8).getLsbD k = false := by rw [h]; simp
  simp only [clearBits, BitVec.getLsbD_and, BitVec.getLsbD_not] at *
  rw [decide_eq_true hk, Bool.true_and]
  revert hm
  cases r.getLsbD k <;> cases m.getLsbD k <;> simp

/-- A pin's mask lies inside the window (R56). -/
theorem bitmask_high (p : Pin) : bitmask p &&& 0xE0#8 = 0#8 := by revert p; decide

/-- Driving a pin keeps the high bits. -/
theorem driveBit_high (p : Pin) (level : Bool) (r : Byte) : driveBit p level r &&& 0xE0#8 = r &&& 0xE0#8 := by
  unfold driveBit
  cases level
  · exact clearBits_high _ _ (bitmask_high p)
  · exact setBits_high _ _ (bitmask_high p)

/-- Replacing the window keeps the high bits (R64). -/
theorem replaceWindow_high (d r : Byte) : replaceWindow d r &&& 0xE0#8 = r &&& 0xE0#8 := by
  refine BitVec.eq_of_getLsbD_eq fun k hk => ?_
  have hw : (0x1F#8).getLsbD k = !(0xE0#8).getLsbD k := by
    match k, hk with
    | 0, _ | 1, _ | 2, _ | 3, _ | 4, _ | 5, _ | 6, _ | 7, _ => rfl
  simp only [replaceWindow, Config.highMask, Config.windowMask, BitVec.getLsbD_and, BitVec.getLsbD_or]
  rw [hw]
  cases r.getLsbD k <;> cases d.getLsbD k <;> cases (0xE0#8).getLsbD k <;> rfl

/-- The bit at a pin is `0x01` or `0x00` (R95). -/
theorem bitAt_eq (p : Pin) (r : Byte) : bitAt p r = boolValue (r.getLsbD p.val) := by
  refine BitVec.eq_of_getLsbD_eq fun k hk => ?_
  unfold bitAt boolValue
  rw [BitVec.getLsbD_and, BitVec.getLsbD_ushiftRight]
  by_cases h0 : k = 0
  · subst h0; cases r.getLsbD p.val <;> simp
  · have : (1#8).getLsbD k = false := by simp; omega
    rw [this]
    cases r.getLsbD p.val <;> (simp; try omega)

end Sys2Proof.Machine
end

