-- ==== Sys2Proof/Laws/State.lean ====
section
/-! SUPPORT. One lemma per field per update of State, so that no later proof unfolds a record update. -/

namespace Sys2Proof.Machine

@[simp] theorem State.withDir_dir (s : State) (v : Byte) : (s.withDir v).dir = v := rfl
@[simp] theorem State.withDir_out (s : State) (v : Byte) : (s.withDir v).out = s.out := rfl
@[simp] theorem State.withDir_inp (s : State) (v : Byte) : (s.withDir v).inp = s.inp := rfl
@[simp] theorem State.withDir_fault (s : State) (v : Byte) : (s.withDir v).fault = s.fault := rfl
@[simp] theorem State.withDir_rsp (s : State) (v : Byte) : (s.withDir v).rsp = s.rsp := rfl
@[simp] theorem State.withDir_edges (s : State) (v : Byte) : (s.withDir v).edges = s.edges := rfl

@[simp] theorem State.withOut_dir (s : State) (v : Byte) : (s.withOut v).dir = s.dir := rfl
@[simp] theorem State.withOut_out (s : State) (v : Byte) : (s.withOut v).out = v := rfl
@[simp] theorem State.withOut_inp (s : State) (v : Byte) : (s.withOut v).inp = s.inp := rfl
@[simp] theorem State.withOut_fault (s : State) (v : Byte) : (s.withOut v).fault = s.fault := rfl
@[simp] theorem State.withOut_rsp (s : State) (v : Byte) : (s.withOut v).rsp = s.rsp := rfl
@[simp] theorem State.withOut_edges (s : State) (v : Byte) : (s.withOut v).edges = s.edges := rfl

@[simp] theorem State.withInp_dir (s : State) (v : Byte) : (s.withInp v).dir = s.dir := rfl
@[simp] theorem State.withInp_out (s : State) (v : Byte) : (s.withInp v).out = s.out := rfl
@[simp] theorem State.withInp_inp (s : State) (v : Byte) : (s.withInp v).inp = v := rfl
@[simp] theorem State.withInp_fault (s : State) (v : Byte) : (s.withInp v).fault = s.fault := rfl
@[simp] theorem State.withInp_rsp (s : State) (v : Byte) : (s.withInp v).rsp = s.rsp := rfl
@[simp] theorem State.withInp_edges (s : State) (v : Byte) : (s.withInp v).edges = s.edges := rfl

@[simp] theorem State.withFault_dir (s : State) (v : FaultCode) : (s.withFault v).dir = s.dir := rfl
@[simp] theorem State.withFault_out (s : State) (v : FaultCode) : (s.withFault v).out = s.out := rfl
@[simp] theorem State.withFault_inp (s : State) (v : FaultCode) : (s.withFault v).inp = s.inp := rfl
@[simp] theorem State.withFault_fault (s : State) (v : FaultCode) : (s.withFault v).fault = v := rfl
@[simp] theorem State.withFault_rsp (s : State) (v : FaultCode) : (s.withFault v).rsp = s.rsp := rfl
@[simp] theorem State.withFault_edges (s : State) (v : FaultCode) : (s.withFault v).edges = s.edges := rfl

@[simp] theorem State.withRsp_dir (s : State) (v : Option Response) : (s.withRsp v).dir = s.dir := rfl
@[simp] theorem State.withRsp_out (s : State) (v : Option Response) : (s.withRsp v).out = s.out := rfl
@[simp] theorem State.withRsp_inp (s : State) (v : Option Response) : (s.withRsp v).inp = s.inp := rfl
@[simp] theorem State.withRsp_fault (s : State) (v : Option Response) : (s.withRsp v).fault = s.fault := rfl
@[simp] theorem State.withRsp_rsp (s : State) (v : Option Response) : (s.withRsp v).rsp = v := rfl
@[simp] theorem State.withRsp_edges (s : State) (v : Option Response) : (s.withRsp v).edges = s.edges := rfl

@[simp] theorem State.withEdges_dir (s : State) (v : List Edge) : (s.withEdges v).dir = s.dir := rfl
@[simp] theorem State.withEdges_out (s : State) (v : List Edge) : (s.withEdges v).out = s.out := rfl
@[simp] theorem State.withEdges_inp (s : State) (v : List Edge) : (s.withEdges v).inp = s.inp := rfl
@[simp] theorem State.withEdges_fault (s : State) (v : List Edge) : (s.withEdges v).fault = s.fault := rfl
@[simp] theorem State.withEdges_rsp (s : State) (v : List Edge) : (s.withEdges v).rsp = s.rsp := rfl
@[simp] theorem State.withEdges_edges (s : State) (v : List Edge) : (s.withEdges v).edges = v := rfl

end Sys2Proof.Machine
end

