-- ==== Sys2Proof/Laws/Ops.lean ====
section
/-! SUPPORT. For each shared operation of Machine/Ops.lean, once, everything it can do. -/

namespace Sys2Proof.Machine

/-- While RUNNING the body is performed. -/
theorem accept_running {s : State} (h : s.fault = 0b00#2) (body : Out) : accept s body = body := if_pos h

/-- While HALTED nothing is. -/
theorem accept_halted {s : State} (h : s.fault ≠ 0b00#2) (body : Out) :
    accept s body = .next (noResponse s) := if_neg h

/-- What acceptance can answer. -/
theorem accept_next {s t : State} {body : Out} (h : accept s body = .next t) :
    (s.fault = 0b00#2 ∧ body = .next t) ∨ (s.fault ≠ 0b00#2 ∧ t = noResponse s) := by
  by_cases hf : s.fault = 0b00#2
  · exact .inl ⟨hf, (accept_running hf body).symm.trans h⟩
  · refine .inr ⟨hf, ?_⟩
    rw [accept_halted hf] at h
    cases h; rfl

/-- What completing answers. -/
theorem complete_next {v : Byte} {s t : State} (h : complete v s = .next t) :
    t = s.withRsp (some ⟨statusOk, v⟩) := by cases h; rfl

/-- What taking a fault answers (R113). -/
theorem raiseFault_next {c : Cause} {s t : State} (h : raiseFault c s = .next t) :
    t = (s.withFault c.code).withRsp (some ⟨c.code, 0x00#8⟩) := by cases h; rfl

/-- No cause has the code of RUNNING (R110). -/
theorem Cause.code_ne_zero (c : Cause) : c.code ≠ 0b00#2 := by cases c <;> decide

/-- With a valid pin the body goes on. -/
theorem requirePin_of_lt {pin : Byte} (h : pin.toNat < 5) (s : State) (body : Pin → Out) :
    requirePin pin s body = body ⟨pin.toNat, h⟩ := by simp [requirePin, selectPin_of_lt h]

/-- With an invalid pin the fault is taken. -/
theorem requirePin_of_ge {pin : Byte} (h : 5 ≤ pin.toNat) (s : State) (body : Pin → Out) :
    requirePin pin s body = raiseFault .invalidPinIndex s := by simp [requirePin, selectPin_of_ge h]

/-- With a valid bit value the body goes on, with an invalid one the fault is taken. -/
theorem requireBit_eq (data : Byte) (s : State) (body : Bool → Out) :
    requireBit data s body =
      if data.toNat < 2 then body (data == 0x01#8) else raiseFault .invalidBitValue s := by
  unfold requireBit
  split
  · next b hb =>
    obtain ⟨hlt, rfl⟩ := bitOperand_eq_some hb
    rw [if_pos hlt]
  · next hn => rw [if_neg (by have := bitOperand_eq_none hn; omega)]

/-- Following a next state with another step of the edge. -/
@[simp] theorem andThen_next (s : State) (f : State → State) : andThen (.next s) f = .next (f s) := rfl

/-- What following can answer. -/
theorem andThen_eq_next {o : Out} {f : State → State} {t : State} (h : andThen o f = .next t) :
    ∃ s, o = .next s ∧ t = f s := by
  cases o with
  | next s => exact ⟨s, rfl, by cases h; rfl⟩
  | fault r => cases h
  | refused r => cases h

/-- The load writes IN if `in_we`, and nothing else (R33). -/
theorem loadInput_eq (e : Edge) (s : State) :
    loadInput e s = s.withInp (if e.inWe then e.inD else s.inp) := by
  unfold loadInput
  cases e.inWe <;> rfl

/-- Forcing directions writes DIR only. -/
theorem forceOutput_eq (m : Byte) (s : State) : forceOutput m s = s.withDir (s.dir ||| m) := rfl

/-- Forcing directions writes DIR only. -/
theorem forceInput_eq (m : Byte) (s : State) : forceInput m s = s.withDir (s.dir &&& ~~~m) := rfl

/-- Driving a pin writes DIR and OUT (R90). -/
theorem drivePin_eq (p : Pin) (level : Bool) (s : State) :
    drivePin p level s = (s.withDir (s.dir ||| bitmask p)).withOut (driveBit p level s.out) := rfl

end Sys2Proof.Machine
end

