-- ==== Sys2Proof/Laws/PerInstr.lean ====
section
/-! SUPPORT. Families of lemmas with one lemma per command. OpcodeField: the canonical word carries the command's
opcode in bits 23:16. OperandFields: it carries the operands in bits 15:8 and 7:0. -/

namespace Sys2Proof.Laws

/-- The word of a command has its opcode in `OP` (R50, R51). -/
def OpcodeField.Statement (i : Instr) : Prop := opField (encode i) = i.opcode

/-- The word of a command has its operands in `PIN` and `DATA` (R50, R62). -/
def OperandFields.Statement (i : Instr) : Prop :=
  pinField (encode i) = i.pinOperand ∧ dataField (encode i) = i.dataOperand

theorem OpcodeField.setPortOutput : OpcodeField.Statement .setPortOutput := opField_commandWord _ _ _
theorem OpcodeField.setPortInput : OpcodeField.Statement .setPortInput := opField_commandWord _ _ _
theorem OpcodeField.setPinOutput (pin : Byte) : OpcodeField.Statement (.setPinOutput pin) := opField_commandWord _ _ _
theorem OpcodeField.setPinInput (pin : Byte) : OpcodeField.Statement (.setPinInput pin) := opField_commandWord _ _ _
theorem OpcodeField.writePort (data : Byte) : OpcodeField.Statement (.writePort data) := opField_commandWord _ _ _
theorem OpcodeField.readPort : OpcodeField.Statement .readPort := opField_commandWord _ _ _
theorem OpcodeField.write (pin data : Byte) : OpcodeField.Statement (.write pin data) := opField_commandWord _ _ _
theorem OpcodeField.read (pin : Byte) : OpcodeField.Statement (.read pin) := opField_commandWord _ _ _
theorem OpcodeField.writeInt (pin data : Byte) : OpcodeField.Statement (.writeInt pin data) := opField_commandWord _ _ _
theorem OpcodeField.readInt (pin : Byte) : OpcodeField.Statement (.readInt pin) := opField_commandWord _ _ _

theorem OperandFields.setPortOutput : OperandFields.Statement .setPortOutput := ⟨pinField_commandWord _ _ _, dataField_commandWord _ _ _⟩
theorem OperandFields.setPortInput : OperandFields.Statement .setPortInput := ⟨pinField_commandWord _ _ _, dataField_commandWord _ _ _⟩
theorem OperandFields.setPinOutput (pin : Byte) : OperandFields.Statement (.setPinOutput pin) := ⟨pinField_commandWord _ _ _, dataField_commandWord _ _ _⟩
theorem OperandFields.setPinInput (pin : Byte) : OperandFields.Statement (.setPinInput pin) := ⟨pinField_commandWord _ _ _, dataField_commandWord _ _ _⟩
theorem OperandFields.writePort (data : Byte) : OperandFields.Statement (.writePort data) := ⟨pinField_commandWord _ _ _, dataField_commandWord _ _ _⟩
theorem OperandFields.readPort : OperandFields.Statement .readPort := ⟨pinField_commandWord _ _ _, dataField_commandWord _ _ _⟩
theorem OperandFields.write (pin data : Byte) : OperandFields.Statement (.write pin data) := ⟨pinField_commandWord _ _ _, dataField_commandWord _ _ _⟩
theorem OperandFields.read (pin : Byte) : OperandFields.Statement (.read pin) := ⟨pinField_commandWord _ _ _, dataField_commandWord _ _ _⟩
theorem OperandFields.writeInt (pin data : Byte) : OperandFields.Statement (.writeInt pin data) := ⟨pinField_commandWord _ _ _, dataField_commandWord _ _ _⟩
theorem OperandFields.readInt (pin : Byte) : OperandFields.Statement (.readInt pin) := ⟨pinField_commandWord _ _ _, dataField_commandWord _ _ _⟩

end Sys2Proof.Laws
end

