-- ==== Sys2Proof/Laws/Port.lean ====
section
/-! SUPPORT. What one edge can do, by its kind. -/

namespace Sys2Proof.Machine

/-- The inputs of the next edge, and what remains. -/
theorem frontEdge_cons {s : State} {e : Edge} {es : List Edge} (h : s.edges = e :: es) :
    frontEdge s = e ∧ dropEdge s = s.withEdges es := by simp [frontEdge, dropEdge, h]

/-- What an edge can answer: the reset step, or the command port's next state followed by the load (R40). -/
theorem clockEdge_next {e : Edge} {s t : State} (h : clockEdge e s = .next t) :
    (e.rst = true ∧ t = resetRegisters s) ∨
      (e.rst = false ∧ ∃ u, commandPort e s = .next u ∧ t = loadInput e u) := by
  unfold clockEdge at h
  cases hr : e.rst with
  | true =>
    rw [hr, if_pos rfl] at h
    cases h
    exact .inl ⟨rfl, rfl⟩
  | false =>
    rw [hr, if_neg (by decide)] at h
    exact .inr ⟨rfl, andThen_eq_next h⟩

/-- What the command port can answer: no response, or what the word does. -/
theorem commandPort_next {e : Edge} {s t : State} (h : commandPort e s = .next t) :
    (e.cmdValid = false ∧ t = noResponse s) ∨ (e.cmdValid = true ∧ runWord e.cmd s = .next t) := by
  unfold commandPort at h
  cases hv : e.cmdValid with
  | false =>
    rw [hv, if_neg (by decide)] at h
    cases h
    exact .inl ⟨rfl, rfl⟩
  | true =>
    rw [hv, if_pos rfl] at h
    exact .inr ⟨rfl, h⟩

end Sys2Proof.Machine
end

