-- ==== Sys2Proof/Tests/Slice0.lean ====
section
/-! SUPPORT. Tests. Expected values come from spec/30_encoding.md section 8 (encodings) and spec/95_test_vectors.md
(vectors S1 to LV7, programs P1 to P5); the vector's name stands in the theorem's docstring. The witnesses show that
the hypotheses of the statements in Certificates/Slice0 can be met. -/

namespace Sys2Proof.Tests

open Sys2Proof Sys2Proof.Machine

/-- A state written as in 95_test_vectors.md, `DIR OUT IN FAULT`, with the edges still to come. -/
def st (dir out inp : Byte) (fault : FaultCode) (edges : List Edge) : State :=
  { dir := dir, out := out, inp := inp, fault := fault, rsp := none, edges := edges }

/-- The registers and the response after a step or a command, `none` where it did not go on. -/
def after (o : Out) : Option (Registers × Option Response) :=
  match o with
  | .next s => some (s.registers, s.rsp)
  | .fault _ => none
  | .refused _ => none

/-- One step that presents a word. -/
def present (w : CommandWord) (dir out inp : Byte) (fault : FaultCode) : Option (Registers × Option Response) :=
  after (step (st dir out inp fault [Edge.command w]))

/-! ### Checks refuse ill-formed terms -/

theorem test_call_two_operands_for_one_refused :
    (Call.mk .setPinOutput [.numeral 1, .numeral 2]).wellFormed = false := by decide
theorem test_call_operand_256_refused : (Call.mk .writePort [.numeral 256]).wellFormed = false := by decide
theorem test_call_name_outside_write_refused : (Call.mk .writeInt [.numeral 2, .on]).wellFormed = false := by decide
theorem test_call_name_as_pin_refused : (Call.mk .write [.on, .on]).wellFormed = false := by decide
theorem test_call_write_on_accepted : (Call.mk .write [.numeral 3, .on]).wellFormed = true := by decide
theorem test_domain_pin_five_refused : (Instr.setPinOutput 0x05#8).inDomain = false := by decide
theorem test_domain_pin_four_accepted : (Instr.setPinOutput 0x04#8).inDomain = true := by decide
theorem test_domain_bit_two_refused : (Instr.writeInt 0x02#8 0x02#8).inDomain = false := by decide
theorem test_domain_write_two_accepted : (Instr.write 0x02#8 0x02#8).inDomain = true := by decide

/-! ### Words written out from the spec's encoding (R50, R51, section 8) -/

theorem test_decode_setPortOutput : decode 0b00000001_11111111_11111111#24 = .ok .setPortOutput := by decide
theorem test_decode_setPortInput : decode 0b00000010_10101011_11001101#24 = .ok .setPortInput := by decide
theorem test_decode_setPinOutput : decode 0b00000011_00000100_00000000#24 = .ok (.setPinOutput 0x04#8) := by decide
theorem test_decode_setPinInput : decode 0b00000100_11111111_00000000#24 = .ok (.setPinInput 0xFF#8) := by decide
theorem test_decode_writePort : decode 0b00000101_00000000_11100000#24 = .ok (.writePort 0xE0#8) := by decide
theorem test_decode_readPort : decode 0b00000110_00000000_00000000#24 = .ok .readPort := by decide
theorem test_decode_write : decode 0b00000111_00000011_00000001#24 = .ok (.write 0x03#8 0x01#8) := by decide
theorem test_decode_read : decode 0b00001000_00000011_00000000#24 = .ok (.read 0x03#8) := by decide
theorem test_decode_writeInt : decode 0b00001001_00000010_00000001#24 = .ok (.writeInt 0x02#8 0x01#8) := by decide
theorem test_decode_readInt : decode 0b00001010_00000011_11111111#24 = .ok (.readInt 0x03#8) := by decide
theorem test_decode_zero_reserved : decode 0x000000#24 = .error (.reservedOpcode 0x00#8) := by decide
theorem test_decode_0B_reserved : decode 0x0B0000#24 = .error (.reservedOpcode 0x0B#8) := by decide
theorem test_encode_writeInt : encode (.writeInt 0x02#8 0x01#8) = 0x090201#24 := by decide
theorem test_encode_unused_fields_zero : encode (.read 0x03#8) = 0x080300#24 := by decide
theorem test_decodeTableWord : decodeTableWord 24 0x090201 = some (.writeInt 0x02#8 0x01#8) := by decide
theorem test_decodeTableWord_reserved : decodeTableWord 24 0x0B0000 = none := by decide

/-! ### The commands -/

/-- DV5. -/
theorem test_setPortOutput_keeps_high_bits :
    present 0x010000#24 0xA0#8 0xE0#8 0x00#8 0 = some (⟨0xBF#8, 0xE0#8, 0x00#8, 0⟩, some ⟨0, 0x00#8⟩) := by decide
/-- DV12. -/
theorem test_setPortOutput_ignores_fields :
    present 0x01FFFF#24 0x0A#8 0x05#8 0x11#8 0 = some (⟨0x1F#8, 0x05#8, 0x11#8, 0⟩, some ⟨0, 0x00#8⟩) := by decide
/-- DV6. -/
theorem test_setPortInput_keeps_high_bits :
    present 0x020000#24 0xBF#8 0xE0#8 0x00#8 0 = some (⟨0xA0#8, 0xE0#8, 0x00#8, 0⟩, some ⟨0, 0x00#8⟩) := by decide
/-- DV11. -/
theorem test_setPinOutput_one_pin :
    present 0x0302FF#24 0x0A#8 0x05#8 0x11#8 0 = some (⟨0x0E#8, 0x05#8, 0x11#8, 0⟩, some ⟨0, 0x01#8⟩) := by decide
/-- FV1. -/
theorem test_setPinOutput_five_faults :
    present 0x030500#24 0x0A#8 0x05#8 0x11#8 0 = some (⟨0x0A#8, 0x05#8, 0x11#8, 1⟩, some ⟨1, 0x00#8⟩) := by decide
/-- DV9. -/
theorem test_setPinInput_one_pin :
    present 0x040000#24 0x1F#8 0x00#8 0x00#8 0 = some (⟨0x1E#8, 0x00#8, 0x00#8, 0⟩, some ⟨0, 0x01#8⟩) := by decide
/-- FV2. -/
theorem test_setPinInput_255_faults :
    present 0x04FF00#24 0x0A#8 0x05#8 0x11#8 0 = some (⟨0x0A#8, 0x05#8, 0x11#8, 1⟩, some ⟨1, 0x00#8⟩) := by decide
/-- W5. -/
theorem test_writePort_keeps_high_bits :
    present 0x05000A#24 0xA0#8 0xE0#8 0x00#8 0 = some (⟨0xBF#8, 0xEA#8, 0x00#8, 0⟩, some ⟨0, 0x00#8⟩) := by decide
/-- W4. -/
theorem test_writePort_drops_high_data :
    present 0x0500FF#24 0x1F#8 0x00#8 0x00#8 0 = some (⟨0x1F#8, 0x1F#8, 0x00#8, 0⟩, some ⟨0, 0x00#8⟩) := by decide
/-- RP1. -/
theorem test_readPort_masks_input :
    present 0x060000#24 0x1F#8 0x15#8 0xEA#8 0 = some (⟨0x00#8, 0x15#8, 0xEA#8, 0⟩, some ⟨0, 0x0A#8⟩) := by decide
/-- PW7, with DIR and OUT as PW6 leaves them. -/
theorem test_write_0x80_is_true :
    present 0x070180#24 0x19#8 0x10#8 0x00#8 0 = some (⟨0x1B#8, 0x12#8, 0x00#8, 0⟩, some ⟨0, 0x00#8⟩) := by decide
/-- PW3. -/
theorem test_write_off_clears :
    present 0x070300#24 0x09#8 0x09#8 0x00#8 0 = some (⟨0x09#8, 0x01#8, 0x00#8, 0⟩, some ⟨0, 0x00#8⟩) := by decide
/-- PR6. -/
theorem test_read_true :
    present 0x080000#24 0x1F#8 0x1F#8 0xF5#8 0 = some (⟨0x1E#8, 0x1F#8, 0xF5#8, 0⟩, some ⟨0, 0x01#8⟩) := by decide
/-- FV4. -/
theorem test_read_0x80_faults :
    present 0x088000#24 0x0A#8 0x05#8 0x11#8 0 = some (⟨0x0A#8, 0x05#8, 0x11#8, 1⟩, some ⟨1, 0x00#8⟩) := by decide
/-- S7, pin 4. -/
theorem test_writeInt_clears :
    present 0x090400#24 0x0A#8 0x15#8 0x00#8 0 = some (⟨0x1A#8, 0x05#8, 0x00#8, 0⟩, some ⟨0, 0x00#8⟩) := by decide
/-- FV7: DIR bit 2 is not set. -/
theorem test_writeInt_two_faults :
    present 0x090202#24 0x0A#8 0x05#8 0x11#8 0 = some (⟨0x0A#8, 0x05#8, 0x11#8, 2⟩, some ⟨2, 0x00#8⟩) := by decide
/-- PR4. -/
theorem test_readInt_normalised :
    present 0x0A0300#24 0x18#8 0x1F#8 0x0A#8 0 = some (⟨0x10#8, 0x1F#8, 0x0A#8, 0⟩, some ⟨0, 0x01#8⟩) := by decide
/-- PR11. -/
theorem test_readInt_no_leak_from_bit_5 :
    present 0x0A0400#24 0x1F#8 0x00#8 0xE0#8 0 = some (⟨0x0F#8, 0x00#8, 0xE0#8, 0⟩, some ⟨0, 0x00#8⟩) := by decide

/-! ### Faults, loads, order, reset -/

/-- FV9: the pin is reported first. -/
theorem test_priority_pin_before_bit :
    present 0x090909#24 0x0A#8 0x05#8 0x11#8 0 = some (⟨0x0A#8, 0x05#8, 0x11#8, 1⟩, some ⟨1, 0x00#8⟩) := by decide
/-- FV12. -/
theorem test_reserved_opcode :
    present 0xFF1234#24 0x0A#8 0x05#8 0x11#8 0 = some (⟨0x0A#8, 0x05#8, 0x11#8, 3⟩, some ⟨3, 0x00#8⟩) := by decide
/-- Section 2.5: the follow-up command is not accepted. -/
theorem test_halted_not_accepted :
    present 0x010000#24 0x0A#8 0x05#8 0x11#8 2 = some (⟨0x0A#8, 0x05#8, 0x11#8, 2⟩, none) := by decide
/-- LV2. -/
theorem test_load_while_halted :
    after (step (st 0x1F#8 0x07#8 0x00#8 2 [Edge.load 0x0A#8])) = some (⟨0x1F#8, 0x07#8, 0x0A#8, 2⟩, none) := by decide
/-- LV4. -/
theorem test_same_edge_reads_old_input :
    after (step (st 0x00#8 0x00#8 0x00#8 0 [⟨false, true, 0x0A0100#24, true, 0x02#8⟩])) =
      some (⟨0x00#8, 0x00#8, 0x02#8, 0⟩, some ⟨0, 0x00#8⟩) := by decide
/-- LV5. -/
theorem test_reset_leaves_halted :
    after (step (st 0x1F#8 0x07#8 0x0A#8 2 [Edge.reset])) = some (⟨0x00#8, 0x00#8, 0x00#8, 0⟩, none) := by decide
/-- LV7. -/
theorem test_reset_wins :
    after (step (st 0x00#8 0x00#8 0x00#8 0 [⟨true, true, 0x090201#24, true, 0xFF#8⟩])) =
      some (⟨0x00#8, 0x00#8, 0x00#8, 0⟩, none) := by decide
/-- S1, as the first command after reset. -/
theorem test_withFetchWord_runs_first :
    after (step (State.reset.withFetchWord 24 0x090201)) =
      some (⟨0x04#8, 0x04#8, 0x00#8, 0⟩, some ⟨0, 0x00#8⟩) := by decide
/-- P3, first two commands. -/
theorem test_assemble_two_lines :
    assemble "writePort(0x1F)  ; drive\nreadPort()".toList = .ok [0x05001F#24, 0x060000#24] := by decide
theorem test_assemble_blank_line : assembleLine "   ; nothing".toList = .ok none := by decide

/-! ### Witnesses: the hypotheses of the statements can be met -/

/-- A RUNNING state with every register non-zero where it may be. -/
def running : State := st 0x0A#8 0x05#8 0x11#8 0 []

/-- The same state, HALTED. -/
def haltedState : State := st 0x0A#8 0x05#8 0x11#8 2 [Edge.command 0x010000#24, Edge.load 0xFF#8]

/-- Every `s.fault = 0` premise: the port commands, WriteIsWriteIntOfTheBoolean and ReadIsReadInt need no more. -/
theorem test_witness_running : running.fault = 0b00#2 := by decide
/-- DecodedCommandKeepsUsedFields. -/
theorem test_witness_decodes : ∃ i, decode 0x0804AA#24 = .ok i := ⟨.read 0x04#8, by decide⟩
/-- DecoderRejectsExactlyReservedOpcodes, IllegalCommandExactlyOnReservedOpcode: both ends of the reserved range and
both ends of the defined one. -/
theorem test_witness_reserved_bounds :
    opField 0x00FFFF#24 = 0x00#8 ∧ 0x0B ≤ (opField 0x0B0000#24).toNat ∧ 0x0B ≤ (opField 0xFF0000#24).toNat ∧
      opField 0x010000#24 ≠ 0x00#8 ∧ (opField 0x0A0000#24).toNat < 0x0B := by decide
/-- IgnoredFieldsHaveNoEffect: two different words of opcode 0x03, and two of opcode 0x05. -/
theorem test_witness_ignored_fields :
    opField 0x0302FF#24 = opField 0x030200#24 ∧ pinField 0x0302FF#24 = pinField 0x030200#24 ∧
      opField 0x05FF15#24 = opField 0x050015#24 ∧ dataField 0x05FF15#24 = dataField 0x050015#24 := by decide
/-- The opcode clauses of the ten command statements: a word of each opcode with its ignored fields set. -/
theorem test_witness_opcodes :
    opField 0x01FFFF#24 = 0x01#8 ∧ opField 0x02FFFF#24 = 0x02#8 ∧ opField 0x0304FF#24 = 0x03#8 ∧
      opField 0x0404FF#24 = 0x04#8 ∧ opField 0x05FF1F#24 = 0x05#8 ∧ opField 0x06FFFF#24 = 0x06#8 ∧
      opField 0x070401#24 = 0x07#8 ∧ opField 0x0804FF#24 = 0x08#8 ∧ opField 0x090401#24 = 0x09#8 ∧
      opField 0x0A04FF#24 = 0x0A#8 := by decide
/-- The valid and the invalid clause of the pin commands, at the boundary; LastDirectionCommandWins,
ReadUndrivesTheWrittenPin. -/
theorem test_witness_pin_bounds :
    running.fault = 0b00#2 ∧ (0x04#8 : Byte).toNat < 5 ∧ 5 ≤ (0x05#8 : Byte).toNat := by decide
/-- The three clauses of WriteIntDrivesOnePin on the data, at the boundary. -/
theorem test_witness_bit_bounds :
    ((0x01#8 : Byte) = 0x00#8 ∨ (0x01#8 : Byte) = 0x01#8) ∧ ((0x02#8 : Byte) ≠ 0x00#8 ∧ (0x02#8 : Byte) ≠ 0x01#8) := by
  decide
/-- PinDirectionTransitions, CommandsAreIdempotent, on a command with operands. -/
theorem test_witness_in_domain :
    running.fault = 0b00#2 ∧ (Instr.writeInt 0x04#8 0x01#8).inDomain = true := by decide
/-- FaultEntryChangesOnlyFault: an accepted word that faults. -/
theorem test_witness_fault_entry :
    running.fault = 0b00#2 ∧ ∃ t, runWord 0x090202#24 running = .next t ∧ t.fault ≠ 0b00#2 :=
  ⟨by decide, _, rfl, by decide⟩
/-- FaultPriorityOnTheWord, StepRunsTheDecodedCommand. -/
theorem test_witness_edge_with_command :
    (st 0x0A#8 0x05#8 0x11#8 0 [Edge.command 0x090909#24]).edges = Edge.command 0x090909#24 :: [] ∧
      (Edge.command 0x090909#24).rst = false ∧ (Edge.command 0x090909#24).cmdValid = true ∧
      decode (Edge.command 0x090909#24).cmd = .ok (.writeInt 0x09#8 0x09#8) := by decide
/-- HaltedBlockAcceptsNothing, HaltedUntilReset. -/
theorem test_witness_halted :
    haltedState.fault ≠ 0b00#2 ∧ haltedState.noReset = true ∧
      haltedState.edges = Edge.command 0x010000#24 :: [Edge.load 0xFF#8] ∧
      (Edge.command 0x010000#24).rst = false := by decide
/-- FaultChangesOnlyByCommandOrReset, by a command and by reset. -/
theorem test_witness_fault_changes :
    (∃ t, step (st 0x00#8 0x00#8 0x00#8 0 [Edge.command 0x000000#24]) = .next t ∧ t.fault ≠ 0b00#2) ∧
      ∃ t, step (st 0x00#8 0x00#8 0x00#8 2 [Edge.reset]) = .next t ∧ t.fault ≠ 0b10#2 :=
  ⟨⟨_, rfl, by decide⟩, ⟨_, rfl, by decide⟩⟩
/-- ResetEdgeZeroesEveryRegister. -/
theorem test_witness_reset_edge :
    (st 0x1F#8 0x07#8 0x0A#8 2 [Edge.reset]).edges = Edge.reset :: [] ∧ Edge.reset.rst = true := by decide
/-- InputLoadWritesOnlyInput. -/
theorem test_witness_load_edge : (st 0x1F#8 0x07#8 0x00#8 2 [Edge.load 0x0A#8]).edges = Edge.load 0x0A#8 :: [] := by decide
/-- PlacedWordIsRunNext. -/
theorem test_witness_placed_word : decodeTableWord 24 0x0A0300 = some (.readInt 0x03#8) := by decide
/-- UnlistedEdgesAreIdle. -/
theorem test_witness_no_edges : running.edges = [] := by decide
/-- InputWrittenOnlyByLoadOrReset, ResponseExactlyWhenAccepted, ResponseMatchesAccessTable: a step that answers. -/
theorem test_witness_step : ∃ t, step (st 0x1F#8 0x15#8 0xEA#8 0 [Edge.command 0x060000#24]) = .next t := ⟨_, rfl⟩
/-- OutputWrittenOnlyByWritesOrReset. -/
theorem test_witness_output_changes :
    ∃ t, step (st 0x00#8 0x00#8 0x00#8 0 [Edge.command 0x050015#24]) = .next t ∧ t.out ≠ 0x00#8 := ⟨_, rfl, by decide⟩
/-- NextStateDependsOnRegistersAndInputs: two different states. -/
theorem test_witness_same_registers :
    running.registers = (running.withRsp (some ⟨0, 0x01#8⟩)).registers ∧
      frontEdge running = frontEdge (running.withRsp (some ⟨0, 0x01#8⟩)) ∧
      running ≠ running.withRsp (some ⟨0, 0x01#8⟩) := by decide
/-- SameEdgeIsCommandThenLoad. -/
theorem test_witness_command_and_load :
    (st 0x00#8 0x00#8 0x00#8 0 [⟨false, true, 0x0A0100#24, true, 0x02#8⟩]).edges =
      { Edge.command 0x0A0100#24 with inWe := true, inD := 0x02#8 } :: [] := by decide
/-- HighBitsZeroKeptByEveryStep, at a state no reset state is. -/
theorem test_witness_high_bits_zero :
    (st 0x1F#8 0x15#8 0xFF#8 0 [Edge.command 0x0500FF#24]).highBitsZero ∧
      ∃ t, step (st 0x1F#8 0x15#8 0xFF#8 0 [Edge.command 0x0500FF#24]) = .next t := ⟨⟨by decide, by decide⟩, _, rfl⟩
/-- HighInputBitsNeverLeak: two states that differ in IN's high bits, in a load's and in an absent command. -/
theorem test_witness_same_but_high_input :
    (st 0x00#8 0x00#8 0xE0#8 0 [⟨false, false, 0x010000#24, true, 0xFF#8⟩]).sameButHighInput
      (st 0x00#8 0x00#8 0x00#8 0 [⟨false, false, 0x020000#24, true, 0x1F#8⟩]) :=
  ⟨rfl, rfl, by decide, rfl, rfl, .cons ⟨rfl, rfl, by decide, rfl, by decide⟩ .nil⟩

end Sys2Proof.Tests
end

/-! SUPPORT. The meanings as equations on states: what each command, word, edge and step leads to, as a function of the
state. Nothing stops the model, so each is total; the claims about steps below are claims about these functions. -/

namespace Sys2Proof.Machine

/-! ### Commands -/

/-- The pins whose direction a command forces (R38). -/
def dirMask : Instr → Byte
  | .setPortOutput | .setPortInput | .writePort _ | .readPort => Config.windowMask
  | .setPinOutput pin | .setPinInput pin | .write pin _ | .read pin | .writeInt pin _ | .readInt pin =>
    0x01#8 <<< pin.toNat

/-- The direction a command forces them to: is it output (R38)? -/
def forcesOutput : Instr → Bool
  | .setPortOutput | .setPinOutput _ | .writePort _ | .write _ _ | .writeInt _ _ => true
  | .setPortInput | .setPinInput _ | .readPort | .read _ | .readInt _ => false

/-- DIR after a command that does not fault. -/
def dirAfter (i : Instr) (dir : Byte) : Byte :=
  if forcesOutput i then setBits (dirMask i) dir else clearBits (dirMask i) dir

/-- The bits of a mask all made the given level. -/
def driveMask (m : Byte) (level : Bool) (r : Byte) : Byte := if level then setBits m r else clearBits m r

/-- OUT after a command that does not fault. -/
def outAfter (i : Instr) (out : Byte) : Byte :=
  match i with
  | .writePort data => replaceWindow data out
  | .write pin data => driveMask (0x01#8 <<< pin.toNat) (boolOperand data) out
  | .writeInt pin data => driveMask (0x01#8 <<< pin.toNat) (data == 0x01#8) out
  | _ => out

/-- The value a command that does not fault answers, from IN. -/
def valueFrom (i : Instr) (inp : Byte) : Byte :=
  match i with
  | .setPinOutput _ | .setPinInput _ => boolValue true
  | .readPort => window inp
  | .read pin | .readInt pin => boolValue (inp.getLsbD pin.toNat)
  | _ => 0x00#8

/-- The state after a command that does not fault. -/
def completed (i : Instr) (s : State) : State :=
  ((s.withDir (dirAfter i s.dir)).withOut (outAfter i s.out)).withRsp (some ⟨statusOk, valueFrom i s.inp⟩)

/-- The state after a fault is taken (R113). -/
def faulted (c : Cause) (s : State) : State := (s.withFault c.code).withRsp (some ⟨c.code, 0x00#8⟩)

/-- The cause a command with arguments outside their domains faults with: the pin is checked first (R60). -/
def faultCause (i : Instr) : Cause :=
  if pinInDomain i.pinOperand then .invalidBitValue else .invalidPinIndex

/-- An invalid pin is reported first (R114). -/
theorem faultCause_of_invalidPin {i : Instr} (h : pinInDomain i.pinOperand = false) :
    faultCause i = .invalidPinIndex := if_neg (Bool.not_eq_true _ ▸ h)

/-- With a valid pin the fault is the bit value's. -/
theorem faultCause_of_validPin {i : Instr} (h : pinInDomain i.pinOperand = true) :
    faultCause i = .invalidBitValue := if_pos h

/-- The sensed bit coerced to a boolean is the bit (R92, R95). -/
theorem bitAt_bne_zero (p : Pin) (r : Byte) : (bitAt p r != 0x00#8) = r.getLsbD p.val := by
  rw [bitAt_eq]
  cases r.getLsbD p.val <;> rfl

/-- An accepted command with a valid pin does what its body does. -/
theorem accept_requirePin_of_inDomain {s : State} {pin : Byte} (hs : s.fault = 0b00#2)
    (hp : pinInDomain pin = true) (body : Pin → Out) :
    accept s (requirePin pin s body) = body ⟨pin.toNat, of_decide_eq_true hp⟩ := by
  rw [accept_running hs, requirePin_of_lt (of_decide_eq_true hp)]

/-- An accepted command with an invalid pin takes the fault, whatever its body. -/
theorem accept_requirePin_of_not_inDomain {s : State} {pin : Byte} (hs : s.fault = 0b00#2)
    (hp : pinInDomain pin = false) (body : Pin → Out) :
    accept s (requirePin pin s body) = .next (faulted .invalidPinIndex s) := by
  rw [accept_running hs, requirePin_of_ge (Nat.le_of_not_lt (of_decide_eq_false hp))]
  rfl

/-- R146: an accepted command whose arguments are inside their domains completes. -/
theorem exec_of_inDomain {i : Instr} {s : State} (hs : s.fault = 0b00#2) (hi : i.inDomain = true) :
    exec i s = .next (completed i s) := by
  cases i with
  | setPortOutput => exact accept_running hs _
  | setPortInput => exact accept_running hs _
  | setPinOutput pin => exact accept_requirePin_of_inDomain hs hi _
  | setPinInput pin => exact accept_requirePin_of_inDomain hs hi _
  | writePort data => exact accept_running hs _
  | readPort => exact accept_running hs _
  | write pin data => exact accept_requirePin_of_inDomain hs hi _
  | read pin =>
    refine (accept_requirePin_of_inDomain hs hi _).trans ?_
    rw [bitAt_bne_zero]
    rfl
  | writeInt pin data =>
    obtain ⟨hp, hd⟩ := Bool.and_eq_true_iff.mp hi
    refine (accept_requirePin_of_inDomain hs hp _).trans ?_
    rw [requireBit_eq, if_pos (of_decide_eq_true hd)]
    rfl
  | readInt pin =>
    refine (accept_requirePin_of_inDomain hs hi _).trans ?_
    rw [bitAt_eq]
    rfl

/-- R146: an accepted command with an argument outside its domain takes the fault of the first check it fails. -/
theorem exec_of_not_inDomain {i : Instr} {s : State} (hs : s.fault = 0b00#2) (hi : i.inDomain = false) :
    exec i s = .next (faulted (faultCause i) s) := by
  have invalidPin (hp : pinInDomain i.pinOperand = false) (body : Pin → Out) :
      accept s (requirePin i.pinOperand s body) = .next (faulted (faultCause i) s) := by
    rw [accept_requirePin_of_not_inDomain hs hp, faultCause_of_invalidPin hp]
  cases i with
  | setPortOutput | setPortInput | writePort _ | readPort => cases hi
  | setPinOutput pin => exact invalidPin hi _
  | setPinInput pin => exact invalidPin hi _
  | write pin data => exact invalidPin hi _
  | read pin => exact invalidPin hi _
  | readInt pin => exact invalidPin hi _
  | writeInt pin data =>
    cases hp : pinInDomain pin with
    | false => exact invalidPin hp _
    | true =>
      have hd : ¬data.toNat < 2 := by simpa [Instr.inDomain, hp] using hi
      refine (accept_requirePin_of_inDomain hs hp _).trans ?_
      rw [requireBit_eq, if_neg hd, faultCause_of_validPin (i := .writeInt pin data) hp]
      rfl

/-- R115: while HALTED no command has an effect. -/
theorem exec_halted {s : State} (hs : s.fault ≠ 0b00#2) (i : Instr) : exec i s = .next (noResponse s) := by
  cases i <;> exact accept_halted hs _

/-! ### What each kind of next state holds -/

@[simp] theorem completed_dir (i : Instr) (s : State) : (completed i s).dir = dirAfter i s.dir := rfl
@[simp] theorem completed_out (i : Instr) (s : State) : (completed i s).out = outAfter i s.out := rfl
@[simp] theorem completed_inp (i : Instr) (s : State) : (completed i s).inp = s.inp := rfl
@[simp] theorem completed_fault (i : Instr) (s : State) : (completed i s).fault = s.fault := rfl
@[simp] theorem completed_rsp (i : Instr) (s : State) :
    (completed i s).rsp = some ⟨statusOk, valueFrom i s.inp⟩ := rfl
@[simp] theorem completed_edges (i : Instr) (s : State) : (completed i s).edges = s.edges := rfl

@[simp] theorem faulted_dir (c : Cause) (s : State) : (faulted c s).dir = s.dir := rfl
@[simp] theorem faulted_out (c : Cause) (s : State) : (faulted c s).out = s.out := rfl
@[simp] theorem faulted_inp (c : Cause) (s : State) : (faulted c s).inp = s.inp := rfl
@[simp] theorem faulted_fault (c : Cause) (s : State) : (faulted c s).fault = c.code := rfl
@[simp] theorem faulted_rsp (c : Cause) (s : State) : (faulted c s).rsp = some ⟨c.code, 0x00#8⟩ := rfl
@[simp] theorem faulted_edges (c : Cause) (s : State) : (faulted c s).edges = s.edges := rfl

@[simp] theorem noResponse_dir (s : State) : (noResponse s).dir = s.dir := rfl
@[simp] theorem noResponse_out (s : State) : (noResponse s).out = s.out := rfl
@[simp] theorem noResponse_inp (s : State) : (noResponse s).inp = s.inp := rfl
@[simp] theorem noResponse_fault (s : State) : (noResponse s).fault = s.fault := rfl
@[simp] theorem noResponse_rsp (s : State) : (noResponse s).rsp = none := rfl
@[simp] theorem noResponse_edges (s : State) : (noResponse s).edges = s.edges := rfl

@[simp] theorem loadInput_dir (e : Edge) (s : State) : (loadInput e s).dir = s.dir := by simp [loadInput_eq]
@[simp] theorem loadInput_out (e : Edge) (s : State) : (loadInput e s).out = s.out := by simp [loadInput_eq]
@[simp] theorem loadInput_inp (e : Edge) (s : State) :
    (loadInput e s).inp = if e.inWe then e.inD else s.inp := by simp [loadInput_eq]
@[simp] theorem loadInput_fault (e : Edge) (s : State) : (loadInput e s).fault = s.fault := by simp [loadInput_eq]
@[simp] theorem loadInput_rsp (e : Edge) (s : State) : (loadInput e s).rsp = s.rsp := by simp [loadInput_eq]
@[simp] theorem loadInput_edges (e : Edge) (s : State) : (loadInput e s).edges = s.edges := by simp [loadInput_eq]

@[simp] theorem dropEdge_dir (s : State) : (dropEdge s).dir = s.dir := rfl
@[simp] theorem dropEdge_out (s : State) : (dropEdge s).out = s.out := rfl
@[simp] theorem dropEdge_inp (s : State) : (dropEdge s).inp = s.inp := rfl
@[simp] theorem dropEdge_fault (s : State) : (dropEdge s).fault = s.fault := rfl
@[simp] theorem dropEdge_rsp (s : State) : (dropEdge s).rsp = s.rsp := rfl
@[simp] theorem dropEdge_edges (s : State) : (dropEdge s).edges = s.edges.tail := rfl

/-! ### Words -/

/-- R60's ladder on a word: the command that completes, or the cause of the fault. -/
def checkWord (w : CommandWord) : Except Cause Instr :=
  match decode w with
  | .ok i => if i.inDomain then .ok i else .error (faultCause i)
  | .error _ => .error .illegalCommand

/-- The state after an accepted word, by the outcome of its checks. -/
def performed (o : Except Cause Instr) (s : State) : State :=
  match o with
  | .ok i => completed i s
  | .error c => faulted c s

/-- The state after a word presented to the block: performed while RUNNING, without effect while HALTED. -/
def wordNext (w : CommandWord) (s : State) : State :=
  if s.fault = 0b00#2 then performed (checkWord w) s else noResponse s

/-- Every word goes on, in every state. -/
theorem runWord_eq (w : CommandWord) (s : State) : runWord w s = .next (wordNext w s) := by
  unfold runWord wordNext checkWord
  by_cases hs : s.fault = 0b00#2
  · rw [if_pos hs]
    cases decode w with
    | error e => exact accept_running hs _
    | ok i =>
      cases hi : i.inDomain with
      | true => simpa [performed, hi] using exec_of_inDomain hs hi
      | false => simpa [performed, hi] using exec_of_not_inDomain hs hi
  · rw [if_neg hs]
    cases decode w with
    | error e => exact accept_halted hs _
    | ok i => exact exec_halted hs i

/-- A word that passes its checks is that command's, with arguments inside their domains. -/
theorem checkWord_eq_ok {w : CommandWord} {i : Instr} (h : checkWord w = .ok i) :
    decode w = .ok i ∧ i.inDomain = true := by
  unfold checkWord at h
  split at h
  · next j hj =>
    split at h
    · next hin => cases h; exact ⟨hj, hin⟩
    · cases h
  · cases h

/-- Everything a word can do: nothing while HALTED, take a fault, or complete as the command it decodes to. -/
theorem wordNext_cases (w : CommandWord) (s : State) :
    (s.fault ≠ 0b00#2 ∧ wordNext w s = noResponse s) ∨
    (s.fault = 0b00#2 ∧ ∃ c, wordNext w s = faulted c s) ∨
    (s.fault = 0b00#2 ∧ ∃ i, decode w = .ok i ∧ i.inDomain = true ∧ wordNext w s = completed i s) := by
  by_cases hs : s.fault = 0b00#2
  · have hword : wordNext w s = performed (checkWord w) s := if_pos hs
    rw [hword]
    cases hc : checkWord w with
    | error c => exact .inr (.inl ⟨hs, c, rfl⟩)
    | ok i =>
      obtain ⟨hdec, hin⟩ := checkWord_eq_ok hc
      exact .inr (.inr ⟨hs, i, hdec, hin, rfl⟩)
  · exact .inl ⟨hs, if_neg hs⟩

/-- A command read from a word has the word's opcode (R51). -/
theorem opcode_of_decode {w : CommandWord} {i : Instr} (h : decode w = .ok i) : i.opcode = opField w := by
  unfold decode at h
  split at h <;> cases h <;> exact Eq.symm ‹_›

/-! ### Edges and steps -/

/-- The state after an edge's command step. -/
def portNext (e : Edge) (s : State) : State := if e.cmdValid then wordNext e.cmd s else noResponse s

/-- The state after an edge: the reset step, or the command step and then the load (R40). -/
def edgeNext (e : Edge) (s : State) : State :=
  if e.rst then resetRegisters s else loadInput e (portNext e s)

/-- Every edge goes on, in every state. -/
theorem clockEdge_eq (e : Edge) (s : State) : clockEdge e s = .next (edgeNext e s) := by
  have hport : commandPort e s = .next (portNext e s) := by
    unfold commandPort portNext
    rw [runWord_eq]
    cases e.cmdValid <;> rfl
  unfold clockEdge edgeNext
  rw [hport]
  cases e.rst <;> rfl

/-- Every step goes on: it is the next edge, at the state with its inputs taken. -/
theorem step_eq (s : State) : step s = .next (edgeNext (frontEdge s) (dropEdge s)) := clockEdge_eq _ _

/-- What a step answers is the state after its edge. -/
theorem eq_edgeNext_of_step {s t : State} (h : step s = .next t) :
    t = edgeNext (frontEdge s) (dropEdge s) := by
  rw [step_eq] at h
  cases h
  rfl

/-- Everything an edge can do: reset; or the load after a command step without a response, after a fault, or after
a command that completes. -/
theorem edgeNext_cases (e : Edge) (s : State) :
    (e.rst = true ∧ edgeNext e s = resetRegisters s) ∨
    (e.rst = false ∧
      (edgeNext e s = loadInput e (noResponse s) ∨
        (rspValid e s = true ∧ ∃ c, edgeNext e s = loadInput e (faulted c s)) ∨
        (rspValid e s = true ∧ ∃ i, decode e.cmd = .ok i ∧ edgeNext e s = loadInput e (completed i s)))) := by
  cases hr : e.rst with
  | true => exact .inl ⟨rfl, by simp [edgeNext, hr]⟩
  | false =>
    refine .inr ⟨rfl, ?_⟩
    have hload : edgeNext e s = loadInput e (portNext e s) := by simp [edgeNext, hr]
    rw [hload]
    cases hv : e.cmdValid with
    | false => exact .inl (by simp [portNext, hv])
    | true =>
      have hword : portNext e s = wordNext e.cmd s := by simp [portNext, hv]
      have hvalid (hs : s.fault = 0b00#2) : rspValid e s = true := by simp [rspValid, cmdReady, hr, hv, hs]
      rw [hword]
      obtain ⟨-, h⟩ | ⟨hs, c, h⟩ | ⟨hs, i, hdec, -, h⟩ := wordNext_cases e.cmd s
      · exact .inl (by rw [h])
      · exact .inr (.inl ⟨hvalid hs, c, by rw [h]⟩)
      · exact .inr (.inr ⟨hvalid hs, i, hdec, by rw [h]⟩)

end Sys2Proof.Machine

/-! SUPPORT. The bits a command reaches: each mask stays inside the window (R56), so bits 7:5 of DIR and OUT are kept
(R14) and bits 7:5 of IN are not read (R15). -/

namespace Sys2Proof.Machine

/-- The mask of a pin in its domain lies inside the window (R56). -/
theorem oneHot_high {pin : Byte} (h : pinInDomain pin = true) : (0x01#8 <<< pin.toNat) &&& 0xE0#8 = 0#8 :=
  bitmask_high ⟨pin.toNat, of_decide_eq_true h⟩

/-- A pin is a bit of a byte. -/
theorem pin_lt_eight (p : Pin) : p.val < 8 := p.isLt.trans (by decide)

/-- Bit p of the mask of an operand is set iff the operand is p (R56). -/
theorem getLsbD_oneHot (p : Pin) (pin : Byte) :
    (0x01#8 <<< pin.toNat).getLsbD p.val = decide (p.val = pin.toNat) := by
  simp only [BitVec.getLsbD_shiftLeft, BitVec.getLsbD_one, pin_lt_eight p, decide_true, Bool.true_and]
  rw [Bool.eq_iff_iff]
  simp
  omega

/-- Every pin is inside the window (R2). -/
theorem getLsbD_windowMask (p : Pin) : Config.windowMask.getLsbD p.val = true := by revert p; decide

/-- The window has no high bit (R2). -/
theorem windowMask_high : Config.windowMask &&& 0xE0#8 = 0#8 := by decide

/-- A command forces directions inside the window only. -/
theorem dirMask_high {i : Instr} (hi : i.inDomain = true) : dirMask i &&& 0xE0#8 = 0#8 := by
  cases i with
  | setPortOutput | setPortInput | writePort _ | readPort => exact windowMask_high
  | setPinOutput _ | setPinInput _ | write _ _ | read _ | readInt _ => exact oneHot_high hi
  | writeInt _ _ => exact oneHot_high (Bool.and_eq_true_iff.mp hi).1

/-- A command keeps bits 7:5 of DIR. -/
theorem dirAfter_high {i : Instr} (hi : i.inDomain = true) (dir : Byte) :
    dirAfter i dir &&& 0xE0#8 = dir &&& 0xE0#8 := by
  unfold dirAfter
  split
  · exact setBits_high _ _ (dirMask_high hi)
  · exact clearBits_high _ _ (dirMask_high hi)

/-- Driving a mask inside the window keeps bits 7:5. -/
theorem driveMask_high {m : Byte} (hm : m &&& 0xE0#8 = 0#8) (level : Bool) (r : Byte) :
    driveMask m level r &&& 0xE0#8 = r &&& 0xE0#8 := by
  cases level with
  | true => exact setBits_high _ _ hm
  | false => exact clearBits_high _ _ hm

/-- A command keeps bits 7:5 of OUT. -/
theorem outAfter_high {i : Instr} (hi : i.inDomain = true) (out : Byte) :
    outAfter i out &&& 0xE0#8 = out &&& 0xE0#8 := by
  cases i with
  | setPortOutput | setPortInput | setPinOutput _ | setPinInput _ | readPort | read _ | readInt _ => rfl
  | writePort data => exact replaceWindow_high _ _
  | write _ _ => exact driveMask_high (oneHot_high hi) _ _
  | writeInt _ _ => exact driveMask_high (oneHot_high (Bool.and_eq_true_iff.mp hi).1) _ _

/-- A word keeps bits 7:5 of DIR and OUT, in every state. -/
theorem wordNext_high (w : CommandWord) (s : State) :
    (wordNext w s).dir &&& 0xE0#8 = s.dir &&& 0xE0#8 ∧ (wordNext w s).out &&& 0xE0#8 = s.out &&& 0xE0#8 := by
  obtain ⟨-, h⟩ | ⟨-, c, h⟩ | ⟨-, i, -, hi, h⟩ := wordNext_cases w s
  · rw [h]; exact ⟨rfl, rfl⟩
  · rw [h]; exact ⟨rfl, rfl⟩
  · rw [h]; exact ⟨dirAfter_high hi _, outAfter_high hi _⟩

/-- An edge's command step keeps bits 7:5 of DIR and OUT. -/
theorem portNext_high (e : Edge) (s : State) :
    (portNext e s).dir &&& 0xE0#8 = s.dir &&& 0xE0#8 ∧ (portNext e s).out &&& 0xE0#8 = s.out &&& 0xE0#8 := by
  unfold portNext
  split
  · exact wordNext_high _ _
  · exact ⟨rfl, rfl⟩

/-- Reset makes bits 7:5 of DIR and OUT zero. -/
theorem resetRegisters_highBitsZero (s : State) : (resetRegisters s).highBitsZero :=
  ⟨BitVec.zero_and, BitVec.zero_and⟩

/-- An edge keeps bits 7:5 of DIR and OUT zero. -/
theorem edgeNext_highBitsZero (e : Edge) {s : State} (h : s.highBitsZero) : (edgeNext e s).highBitsZero := by
  unfold edgeNext
  split
  · exact resetRegisters_highBitsZero s
  · obtain ⟨hdir, hout⟩ := h
    obtain ⟨kdir, kout⟩ := portNext_high e s
    unfold State.highBitsZero
    rw [loadInput_dir, loadInput_out]
    exact ⟨kdir.trans hdir, kout.trans hout⟩

/-- Bit k of DIR after a command: the forced direction inside the mask, the old bit outside it. -/
theorem getLsbD_dirAfter (i : Instr) (dir : Byte) {k : Nat} (hk : k < 8) :
    (dirAfter i dir).getLsbD k = if (dirMask i).getLsbD k then forcesOutput i else dir.getLsbD k := by
  unfold dirAfter
  cases forcesOutput i with
  | true =>
    rw [if_pos rfl, setBits, BitVec.getLsbD_or]
    cases (dirMask i).getLsbD k <;> simp
  | false =>
    rw [if_neg (by decide), clearBits, BitVec.getLsbD_and, BitVec.getLsbD_not, decide_eq_true hk]
    cases (dirMask i).getLsbD k <;> simp

/-- Bytes with the same window have the same level at each pin. -/
theorem getLsbD_of_window_eq {a b : Byte} (h : a &&& Config.windowMask = b &&& Config.windowMask) (p : Pin) :
    a.getLsbD p.val = b.getLsbD p.val := by
  have hbit := congrArg (BitVec.getLsbD · p.val) h
  simpa only [BitVec.getLsbD_and, getLsbD_windowMask, Bool.and_true] using hbit

/-- The value a command answers depends on the window of IN only. -/
theorem valueFrom_of_window_eq {i : Instr} (hi : i.inDomain = true) {a b : Byte}
    (h : a &&& Config.windowMask = b &&& Config.windowMask) : valueFrom i a = valueFrom i b := by
  cases i with
  | setPortOutput | setPortInput | setPinOutput _ | setPinInput _ | writePort _ | write _ _ | writeInt _ _ => rfl
  | readPort => exact h
  | read pin | readInt pin => exact congrArg boolValue (getLsbD_of_window_eq h ⟨pin.toNat, of_decide_eq_true hi⟩)

end Sys2Proof.Machine

/-! SUPPORT. What an edge keeps, register by register, and what its outcome depends on. -/

namespace Sys2Proof.Machine

/-- No word writes IN (R12). -/
theorem wordNext_inp (w : CommandWord) (s : State) : (wordNext w s).inp = s.inp := by
  obtain ⟨-, h⟩ | ⟨-, c, h⟩ | ⟨-, i, -, -, h⟩ := wordNext_cases w s <;> rw [h] <;> rfl

/-- An edge's command step does not write IN. -/
theorem portNext_inp (e : Edge) (s : State) : (portNext e s).inp = s.inp := by
  unfold portNext
  split
  · exact wordNext_inp _ _
  · rfl

/-- Only the three write commands write OUT (R11). -/
theorem outAfter_of_opcode {i : Instr} (h : i.opcode ∉ [0x05#8, 0x07#8, 0x09#8]) (out : Byte) :
    outAfter i out = out := by
  cases i with
  | setPortOutput | setPortInput | setPinOutput _ | setPinInput _ | readPort | read _ | readInt _ => rfl
  | writePort _ | write _ _ | writeInt _ _ => exact absurd (by simp [Instr.opcode]) h

/-- A word reads neither the last response nor the edges to come, and writes no edges. -/
theorem wordNext_withRsp_withEdges (w : CommandWord) (s : State) (r : Option Response) (es : List Edge) :
    wordNext w ((s.withRsp r).withEdges es) = (wordNext w s).withEdges es := by
  unfold wordNext
  by_cases hs : s.fault = 0b00#2
  · rw [if_pos hs, if_pos (by simpa using hs)]
    cases checkWord w <;> rfl
  · rw [if_neg hs, if_neg (by simpa using hs)]
    rfl

/-- The input load does not look at the edges to come. -/
theorem loadInput_withEdges (e : Edge) (s : State) (es : List Edge) :
    loadInput e (s.withEdges es) = (loadInput e s).withEdges es := by
  rw [loadInput_eq, loadInput_eq]
  rfl

/-- An edge reads neither the last response nor the edges to come (R17). -/
theorem edgeNext_withRsp_withEdges (e : Edge) (s : State) (r : Option Response) (es : List Edge) :
    edgeNext e ((s.withRsp r).withEdges es) = (edgeNext e s).withEdges es := by
  have hport : portNext e ((s.withRsp r).withEdges es) = (portNext e s).withEdges es := by
    unfold portNext
    split
    · exact wordNext_withRsp_withEdges _ _ _ _
    · rfl
  unfold edgeNext
  split
  · rfl
  · rw [hport, loadInput_withEdges]

/-- States with the same registers differ in the model's own fields only. -/
theorem eq_of_registers_eq {s t : State} (h : s.registers = t.registers) :
    t = (s.withRsp t.rsp).withEdges t.edges := by
  cases s
  cases t
  cases h
  rfl

end Sys2Proof.Machine

/-! SUPPORT. R15 as a relation kept by every operation: `sameButHighInput` states stay so under the same command,
fault, load of the same window, reset and taking of the next edge. -/

namespace Sys2Proof.Machine

section
variable {s t : State}

/-- Taking the next edge leaves related states. -/
theorem dropEdge_sameButHighInput (h : s.sameButHighInput t) : (dropEdge s).sameButHighInput (dropEdge t) := by
  obtain ⟨hdir, hout, hinp, hfault, hrsp, hedges⟩ := h
  refine ⟨hdir, hout, hinp, hfault, hrsp, ?_⟩
  rw [dropEdge_edges, dropEdge_edges]
  generalize s.edges = es at hedges ⊢
  generalize t.edges = fs at hedges ⊢
  cases hedges with
  | nil => exact .nil
  | cons _ htail => exact htail

/-- The next edges of related states are related. -/
theorem frontEdge_sameButHighInput (h : s.sameButHighInput t) :
    (frontEdge s).sameButHighInput (frontEdge t) := by
  obtain ⟨-, -, -, -, -, hedges⟩ := h
  unfold frontEdge
  generalize s.edges = es at hedges ⊢
  generalize t.edges = fs at hedges ⊢
  cases hedges with
  | nil => exact ⟨rfl, rfl, fun _ => rfl, rfl, fun _ => rfl⟩
  | cons hhead _ => exact hhead

/-- No response leaves related states. -/
theorem noResponse_sameButHighInput (h : s.sameButHighInput t) :
    (noResponse s).sameButHighInput (noResponse t) := by
  obtain ⟨hdir, hout, hinp, hfault, -, hedges⟩ := h
  exact ⟨hdir, hout, hinp, hfault, rfl, hedges⟩

/-- Reset leaves related states. -/
theorem resetRegisters_sameButHighInput (h : s.sameButHighInput t) :
    (resetRegisters s).sameButHighInput (resetRegisters t) := by
  obtain ⟨-, -, -, -, -, hedges⟩ := h
  exact ⟨rfl, rfl, rfl, rfl, rfl, hedges⟩

/-- The same outcome of a word's checks leaves related states and equal responses. -/
theorem performed_sameButHighInput (h : s.sameButHighInput t) {o : Except Cause Instr}
    (ho : ∀ i, o = .ok i → i.inDomain = true) : (performed o s).sameButHighInput (performed o t) := by
  obtain ⟨hdir, hout, hinp, hfault, -, hedges⟩ := h
  cases o with
  | error c => exact ⟨hdir, hout, hinp, rfl, rfl, hedges⟩
  | ok i =>
    have hrsp : (completed i s).rsp = (completed i t).rsp := by
      rw [completed_rsp, completed_rsp, valueFrom_of_window_eq (ho i rfl) hinp]
    exact ⟨congrArg (dirAfter i) hdir, congrArg (outAfter i) hout, hinp, hfault, hrsp, hedges⟩

/-- The same word leaves related states. -/
theorem wordNext_sameButHighInput (h : s.sameButHighInput t) (w : CommandWord) :
    (wordNext w s).sameButHighInput (wordNext w t) := by
  have hfault : s.fault = t.fault := by obtain ⟨-, -, -, hf, -, -⟩ := h; exact hf
  unfold wordNext
  rw [hfault]
  split
  · exact performed_sameButHighInput h fun i hi => (checkWord_eq_ok hi).2
  · exact noResponse_sameButHighInput h

/-- Loads of values with the same window leave related states. -/
theorem loadInput_sameButHighInput (h : s.sameButHighInput t) {e f : Edge} (hef : e.sameButHighInput f) :
    (loadInput e s).sameButHighInput (loadInput f t) := by
  obtain ⟨-, -, -, hwe, hval⟩ := hef
  unfold loadInput
  rw [← hwe]
  split
  · next hload =>
    obtain ⟨hdir, hout, -, hfault, hrsp, hedges⟩ := h
    exact ⟨hdir, hout, hval hload, hfault, hrsp, hedges⟩
  · exact h

/-- Related edges have command steps that leave related states: a word not presented is not looked at (R31). -/
theorem portNext_sameButHighInput (h : s.sameButHighInput t) {e f : Edge} (hef : e.sameButHighInput f) :
    (portNext e s).sameButHighInput (portNext f t) := by
  obtain ⟨-, hvalid, hcmd, -, -⟩ := hef
  unfold portNext
  rw [← hvalid]
  split
  · next hpresented =>
    rw [← hcmd hpresented]
    exact wordNext_sameButHighInput h _
  · exact noResponse_sameButHighInput h

/-- Related edges leave related states. -/
theorem edgeNext_sameButHighInput (h : s.sameButHighInput t) {e f : Edge} (hef : e.sameButHighInput f) :
    (edgeNext e s).sameButHighInput (edgeNext f t) := by
  have hrst : e.rst = f.rst := by obtain ⟨hr, -⟩ := hef; exact hr
  unfold edgeNext
  rw [← hrst]
  split
  · exact resetRegisters_sameButHighInput h
  · exact loadInput_sameButHighInput (portNext_sameButHighInput h hef) hef

end

/-- A run of one edge more goes on from the state after its first edge. -/
theorem run_succ (k : Nat) (s : State) : run (k + 1) s = run k (edgeNext (frontEdge s) (dropEdge s)) := by
  rw [run, step_eq]

end Sys2Proof.Machine

/-! The statements of spec/10_state.md. -/

namespace Sys2Proof.Proofs

open Sys2Proof.Machine

/-- Settles O50, by what an edge keeps. -/
theorem highBitsZeroKeptByEveryStep : Obligations.HighBitsZeroKeptByEveryStep := by
  intro s t hs h
  rw [eq_edgeNext_of_step h]
  exact edgeNext_highBitsZero _ hs

/-- Settles O51, by induction on the length of the run: each edge keeps the relation. -/
theorem highInputBitsNeverLeak : Obligations.HighInputBitsNeverLeak := by
  intro k
  induction k with
  | zero => exact fun s s' h => ⟨s, s', rfl, rfl, h⟩
  | succ k ih =>
    intro s s' h
    rw [run_succ, run_succ]
    exact ih _ _ (edgeNext_sameButHighInput (dropEdge_sameButHighInput h) (frontEdge_sameButHighInput h))

/-- Settles O20: a pin inside the command's mask gets the forced direction, any other keeps its own. -/
theorem pinDirectionTransitions : Obligations.PinDirectionTransitions := by
  intro i p s hs hi
  refine ⟨completed i s, exec_of_inDomain hs hi, ?_⟩
  rw [completed_dir, getLsbD_dirAfter i s.dir (pin_lt_eight p)]
  cases i with
  | setPortOutput | setPortInput | writePort _ | readPort => simp only [dirMask, getLsbD_windowMask]; rfl
  | setPinOutput _ | setPinInput _ | write _ _ | read _ | writeInt _ _ | readInt _ =>
    simp only [dirMask, getLsbD_oneHot, decide_eq_true_eq]; rfl

/-- Settles O23: every command's masks lie inside the window. -/
theorem commandsKeepHighBits : Obligations.CommandsKeepHighBits :=
  fun w s => ⟨wordNext w s, runWord_eq w s, wordNext_high w s⟩

/-- Settles O35: of what an edge can do, only reset and a fault write FAULT. -/
theorem faultChangesOnlyByCommandOrReset : Obligations.FaultChangesOnlyByCommandOrReset := by
  intro s t h hne
  rw [eq_edgeNext_of_step h] at hne ⊢
  obtain ⟨hr, ht⟩ | ⟨-, ht | ⟨hv, c, ht⟩ | ⟨-, i, -, ht⟩⟩ := edgeNext_cases (frontEdge s) (dropEdge s)
  · exact .inl ⟨hr, by rw [ht]; rfl⟩
  · exact absurd (by rw [ht]; simp) hne
  · obtain ⟨hvalid, hready⟩ := Bool.and_eq_true_iff.mp hv
    have hrunning : s.fault = 0b00#2 := by simpa using (Bool.and_eq_true_iff.mp hready).1
    exact .inr ⟨hvalid, hrunning, by rw [ht]; simp⟩
  · exact absurd (by rw [ht]; simp) hne

/-- Settles O43: the command step keeps IN, so an edge leaves reset's value, the load's or the old one. -/
theorem inputWrittenOnlyByLoadOrReset : Obligations.InputWrittenOnlyByLoadOrReset := by
  intro s t h
  rw [eq_edgeNext_of_step h, edgeNext]
  split
  · rfl
  · rw [loadInput_inp, portNext_inp, dropEdge_inp]

/-- Settles O44: of what an edge can do, only reset and a completed write command write OUT. -/
theorem outputWrittenOnlyByWritesOrReset : Obligations.OutputWrittenOnlyByWritesOrReset := by
  intro s t h hne
  rw [eq_edgeNext_of_step h] at hne
  obtain ⟨hr, -⟩ | ⟨-, ht | ⟨-, c, ht⟩ | ⟨hv, i, hdec, ht⟩⟩ := edgeNext_cases (frontEdge s) (dropEdge s)
  · exact .inl hr
  · exact absurd (by rw [ht]; simp) hne
  · exact absurd (by rw [ht]; simp) hne
  · refine .inr ⟨hv, ?_⟩
    rw [← opcode_of_decode hdec]
    by_contra hop
    exact hne (by rw [ht]; simp [outAfter_of_opcode hop])

/-- Settles O46: the two states differ in the model's own fields only, which an edge does not read. -/
theorem nextStateDependsOnRegistersAndInputs : Obligations.NextStateDependsOnRegistersAndInputs := by
  intro s s' hregs hfront
  have hdrop : dropEdge s' = ((dropEdge s).withRsp s'.rsp).withEdges s'.edges.tail := eq_of_registers_eq hregs
  refine ⟨_, _, step_eq s, step_eq s', ?_⟩
  rw [hdrop, ← hfront, edgeNext_withRsp_withEdges]
  exact ⟨rfl, rfl⟩

/-- Settles O36. -/
theorem resetStateRegistersAreZero : Obligations.ResetStateRegistersAreZero := ⟨rfl, rfl, rfl, rfl⟩

/-- Settles O47. -/
theorem observationOutputsShowRegisters : Obligations.ObservationOutputsShowRegisters :=
  fun _ => ⟨rfl, rfl, rfl, rfl, bne_iff_ne⟩

/-- Settles O49. -/
theorem highBitsZeroAtReset : Obligations.HighBitsZeroAtReset :=
  resetRegisters_highBitsZero State.reset

end Sys2Proof.Proofs

/-! SUPPORT. The transaction level of Machine/Transaction.lean against the machine: the check ladder and the access
table, read from a word's raw fields, are those of the command the word decodes to (R38, R60), so an edge's registers
are the fold of the steps it performs (R39, R40). -/

namespace Sys2Proof.Machine

/-! ### The fields a command uses -/

/-- A command read from a word has the word's opcode, and the word's operand in each field its format uses (R52). -/
theorem fields_of_decode {w : CommandWord} {i : Instr} (h : decode w = .ok i) :
    opField w = i.opcode ∧ (i.format.usesPin = true → pinField w = i.pinOperand) ∧
      (i.format.usesData = true → dataField w = i.dataOperand) := by
  refine ⟨(opcode_of_decode h).symm, ?_⟩
  unfold decode at h
  split at h <;> cases h <;> simp [Instr.format, Format.usesPin, Format.usesData, Instr.pinOperand, Instr.dataOperand]

/-- A word that decodes to no command has a reserved opcode (R59). -/
theorem reserved_of_decode_error {w : CommandWord} {err : DecodeError} (h : decode w = .error err) :
    opField w = 0x00#8 ∨ 11 ≤ (opField w).toNat := by
  unfold decode at h
  split at h
  case h_11 => simp only [imp_false] at *; bv_omega
  all_goals cases h

/-- No command has a reserved opcode (R51, R59). -/
theorem opcode_not_reserved (i : Instr) : ¬(i.opcode = 0x00#8 ∨ 11 ≤ i.opcode.toNat) := by
  cases i <;> simp [Instr.opcode]

/-! ### The check ladder -/

/-- The ladder looks at the fields of the word's command only (R52). -/
theorem faultLadder_of_decode {w : CommandWord} {i : Instr} (h : decode w = .ok i) :
    faultLadder (opField w) (pinField w) (dataField w) = faultLadder i.opcode i.pinOperand i.dataOperand := by
  obtain ⟨hop, hpin, hdata⟩ := fields_of_decode h
  rw [hop]
  cases i with
  | setPortOutput | setPortInput | writePort _ | readPort => rfl
  | setPinOutput _ | setPinInput _ | write _ _ | read _ | readInt _ => rw [hpin rfl]; rfl
  | writeInt _ _ => rw [hpin rfl, hdata rfl]

/-- A command whose arguments are inside their domains passes the ladder (R146). -/
theorem faultLadder_of_inDomain {i : Instr} (hi : i.inDomain = true) :
    faultLadder i.opcode i.pinOperand i.dataOperand = 0b00#2 := by
  have validPin {pin : Byte} (hp : pinInDomain pin = true) : ¬5 ≤ pin.toNat :=
    Nat.not_le.mpr (of_decide_eq_true hp)
  cases i with
  | setPortOutput | setPortInput | writePort _ | readPort => rfl
  | setPinOutput _ | setPinInput _ | write _ _ | read _ | readInt _ =>
    simp [faultLadder, Instr.opcode, Instr.pinOperand, validPin hi]
  | writeInt pin data =>
    obtain ⟨hp, hd⟩ := Bool.and_eq_true_iff.mp hi
    have validBit : ¬2 ≤ data.toNat := Nat.not_le.mpr (of_decide_eq_true hd)
    simp [faultLadder, Instr.opcode, Instr.pinOperand, Instr.dataOperand, validPin hp, validBit]

/-- A command with an argument outside its domain gets the code of the first check it fails (R60, R114). -/
theorem faultLadder_of_not_inDomain {i : Instr} (hi : i.inDomain = false) :
    faultLadder i.opcode i.pinOperand i.dataOperand = (faultCause i).code := by
  have invalidPin (hop : i.opcode ∈ pinOpcodes) (hp : pinInDomain i.pinOperand = false) :
      faultLadder i.opcode i.pinOperand i.dataOperand = (faultCause i).code := by
    have hge : 5 ≤ i.pinOperand.toNat := Nat.le_of_not_lt (of_decide_eq_false hp)
    rw [faultLadder, if_neg (opcode_not_reserved i), if_pos ⟨hop, hge⟩, faultCause_of_invalidPin hp]
    rfl
  cases i with
  | setPortOutput | setPortInput | writePort _ | readPort => cases hi
  | setPinOutput _ | setPinInput _ | write _ _ | read _ | readInt _ =>
    exact invalidPin (by simp [pinOpcodes, Instr.opcode]) hi
  | writeInt pin data =>
    cases hp : pinInDomain pin with
    | false => exact invalidPin (by simp [pinOpcodes, Instr.opcode]) hp
    | true =>
      have validPin : ¬5 ≤ pin.toNat := Nat.not_le.mpr (of_decide_eq_true hp)
      have invalidBit : 2 ≤ data.toNat := Nat.le_of_not_lt (by simpa [Instr.inDomain, hp] using hi)
      rw [faultCause_of_validPin (i := .writeInt pin data) hp]
      simp [faultLadder, Instr.opcode, Instr.pinOperand, Instr.dataOperand, Cause.code, validPin, invalidBit]

/-- The code the outcome of a word's checks leaves in FAULT. -/
def outcomeCode : Except Cause Instr → FaultCode
  | .ok _ => 0b00#2
  | .error c => c.code

/-- The ladder over the raw fields and the checks of the decoded command agree on every word. -/
theorem faultLadder_eq_outcomeCode (w : CommandWord) :
    faultLadder (opField w) (pinField w) (dataField w) = outcomeCode (checkWord w) := by
  unfold checkWord
  cases hdec : decode w with
  | error err => exact if_pos (reserved_of_decode_error hdec)
  | ok i =>
    rw [faultLadder_of_decode hdec]
    cases hi : i.inDomain with
    | true => simpa [hi, outcomeCode] using faultLadder_of_inDomain hi
    | false => simpa [hi, outcomeCode] using faultLadder_of_not_inDomain hi

/-! ### The access table -/

/-- The table looks at the fields of the word's command only (R52). -/
theorem accessOf_of_decode {w : CommandWord} {i : Instr} (h : decode w = .ok i) :
    accessOf (opField w) (pinField w) (dataField w) = accessOf i.opcode i.pinOperand i.dataOperand := by
  obtain ⟨hop, hpin, hdata⟩ := fields_of_decode h
  rw [hop]
  cases i with
  | setPortOutput | setPortInput | readPort => rfl
  | setPinOutput _ | setPinInput _ | read _ | readInt _ => rw [hpin rfl]; rfl
  | writePort _ => rw [hdata rfl]; rfl
  | write _ _ | writeInt _ _ => rw [hpin rfl, hdata rfl]

/-- Writing the bits of an empty mask writes nothing. -/
theorem mergeMask_zero (bits r : Byte) : (r &&& ~~~0x00#8) ||| (bits &&& 0x00#8) = r := by
  simp only [BitVec.not_zero, BitVec.and_allOnes, BitVec.and_zero, BitVec.or_zero]

/-- Writing every bit of a mask with one level drives the mask to it. -/
theorem mergeMask_eq_driveMask (m r : Byte) (level : Bool) :
    (r &&& ~~~m) ||| ((if level then 0xFF#8 else 0x00#8) &&& m) = driveMask m level r := by
  cases level with
  | false => simp [driveMask, clearBits]
  | true =>
    have hall : 0xFF#8 &&& m = m := BitVec.allOnes_and
    rw [if_pos rfl, hall, driveMask, if_pos rfl, setBits]
    ext k
    simp only [BitVec.getElem_or, BitVec.getElem_and, BitVec.getElem_not]
    cases r[k] <;> cases m[k] <;> rfl

/-- A command's row of the table forces the directions the command forces. -/
theorem accessOf_apply_dir (i : Instr) (r : Registers) :
    ((accessOf i.opcode i.pinOperand i.dataOperand).apply r).dir = dirAfter i r.dir := by
  cases i <;> rfl

/-- A command's row of the table writes to OUT what the command writes. -/
theorem accessOf_apply_out (i : Instr) (r : Registers) :
    ((accessOf i.opcode i.pinOperand i.dataOperand).apply r).out = outAfter i r.out := by
  cases i with
  | setPortOutput | setPortInput | setPinOutput _ | setPinInput _ | readPort | read _ | readInt _ =>
    exact mergeMask_zero 0x00#8 r.out
  | writePort data => simp [accessOf, Access.apply, Instr.opcode, Instr.dataOperand, outAfter, replaceWindow]
  | write pin data =>
    refine Eq.trans ?_ (mergeMask_eq_driveMask _ _ _)
    by_cases hd : data = 0x00#8 <;>
      simp [accessOf, Access.apply, Instr.opcode, Instr.pinOperand, Instr.dataOperand, boolOperand, hd]
  | writeInt pin data =>
    refine Eq.trans ?_ (mergeMask_eq_driveMask _ _ _)
    by_cases hd : data = 0x01#8 <;>
      simp [accessOf, Access.apply, Instr.opcode, Instr.pinOperand, Instr.dataOperand, hd]

/-- A command's row of the table leaves the registers the command leaves (R38). -/
theorem accessOf_apply (i : Instr) (s : State) :
    (accessOf i.opcode i.pinOperand i.dataOperand).apply s.registers = (completed i s).registers :=
  congrArg₂ (fun dir out => (⟨dir, out, s.inp, s.fault⟩ : Registers))
    (accessOf_apply_dir i s.registers) (accessOf_apply_out i s.registers)

/-! ### Steps of the agents -/

/-- The host has no step while HALTED (R115). -/
theorem apply_cmd_halted (w : CommandWord) {r : Registers} (hr : r.fault ≠ 0b00#2) :
    (Transaction.cmd w).apply r = r := if_pos hr

/-- An accepted word that fails a check writes FAULT only (R113). -/
theorem apply_cmd_error {w : CommandWord} {c : Cause} {r : Registers} (hr : r.fault = 0b00#2)
    (hc : checkWord w = .error c) : (Transaction.cmd w).apply r = { r with fault := c.code } := by
  have hcode : faultLadder (opField w) (pinField w) (dataField w) = c.code := by
    rw [faultLadder_eq_outcomeCode, hc, outcomeCode]
  rw [Transaction.apply, if_neg (not_not.mpr hr), hcode, if_pos c.code_ne_zero]

/-- An accepted word that passes the checks performs its command's access. -/
theorem apply_cmd_ok {w : CommandWord} {i : Instr} {r : Registers} (hr : r.fault = 0b00#2)
    (hc : checkWord w = .ok i) :
    (Transaction.cmd w).apply r = (accessOf i.opcode i.pinOperand i.dataOperand).apply r := by
  have hcode : faultLadder (opField w) (pinField w) (dataField w) = 0b00#2 := by
    rw [faultLadder_eq_outcomeCode, hc, outcomeCode]
  have hdec : decode w = .ok i := (checkWord_eq_ok hc).1
  rw [Transaction.apply, if_neg (not_not.mpr hr), if_neg (not_not.mpr hcode), accessOf_of_decode hdec]

/-- A word leaves the registers the host's step leaves. -/
theorem wordNext_registers (w : CommandWord) (s : State) :
    (wordNext w s).registers = (Transaction.cmd w).apply s.registers := by
  unfold wordNext
  by_cases hs : s.fault = 0b00#2
  · rw [if_pos hs]
    cases hc : checkWord w with
    | error c => rw [apply_cmd_error hs hc]; rfl
    | ok i => rw [apply_cmd_ok hs hc, accessOf_apply]; rfl
  · rw [if_neg hs, apply_cmd_halted w hs]
    rfl

/-- Sequences of steps one after the other are folded one after the other. -/
theorem foldTransactions_append (ts us : List Transaction) (r : Registers) :
    foldTransactions (ts ++ us) r = foldTransactions us (foldTransactions ts r) := List.foldl_append

/-- An edge's command step leaves the registers of the host's steps at the edge. -/
theorem portNext_registers (e : Edge) (s : State) :
    (portNext e s).registers = foldTransactions (if e.cmdValid then [.cmd e.cmd] else []) s.registers := by
  unfold portNext
  split
  · exact wordNext_registers _ _
  · rfl

/-- An edge's load leaves the registers of the environment's steps at the edge (R33). -/
theorem loadInput_registers (e : Edge) (s : State) :
    (loadInput e s).registers = foldTransactions (if e.inWe then [.load e.inD] else []) s.registers := by
  unfold loadInput
  split <;> rfl

/-- The registers after an edge are the fold of the steps the edge performs (R39, R40). -/
theorem edgeNext_registers (e : Edge) (s : State) :
    (edgeNext e s).registers = foldTransactions e.transactions s.registers := by
  unfold edgeNext Edge.transactions
  split
  · rfl
  · rw [loadInput_registers, portNext_registers, foldTransactions_append]

/-! ### What else an edge leaves -/

/-- The edges to come are none of the registers (R17). -/
@[simp] theorem State.withEdges_registers (s : State) (es : List Edge) :
    (s.withEdges es).registers = s.registers := rfl

/-- A word takes no edge from the list. -/
theorem wordNext_edges (w : CommandWord) (s : State) : (wordNext w s).edges = s.edges := by
  obtain ⟨-, h⟩ | ⟨-, c, h⟩ | ⟨-, i, -, -, h⟩ := wordNext_cases w s <;> rw [h] <;> rfl

/-- An edge takes no edge from the list: its own inputs are taken before it. -/
theorem edgeNext_edges (e : Edge) (s : State) : (edgeNext e s).edges = s.edges := by
  unfold edgeNext
  split
  · rfl
  · rw [loadInput_edges, portNext]
    split
    · exact wordNext_edges _ _
    · rfl

/-- A word is answered exactly while RUNNING (R31, R115). -/
theorem wordNext_rsp_isSome (w : CommandWord) (s : State) :
    (wordNext w s).rsp.isSome = (s.fault == 0b00#2) := by
  obtain ⟨hs, h⟩ | ⟨hs, c, h⟩ | ⟨hs, i, -, -, h⟩ := wordNext_cases w s <;> rw [h] <;> simp [hs]

/-- An edge is answered exactly when its command is accepted (R32). -/
theorem edgeNext_rsp_isSome (e : Edge) (s : State) : (edgeNext e s).rsp.isSome = rspValid e s := by
  unfold edgeNext rspValid cmdReady
  cases e.rst with
  | true => simp [resetRegisters]
  | false =>
    rw [if_neg Bool.false_ne_true, loadInput_rsp, portNext]
    cases e.cmdValid with
    | true => simpa using wordNext_rsp_isSome e.cmd s
    | false => rfl

/-- The response at an edge with a word is the word's, answered from the registers before the edge's load (R40). -/
theorem edgeNext_rsp_of_cmdValid {e : Edge} (hr : e.rst = false) (hv : e.cmdValid = true) (s : State)
    (es : List Edge) : (edgeNext e (s.withEdges es)).rsp = (wordNext e.cmd s).rsp := by
  have hword : wordNext e.cmd (s.withEdges es) = (wordNext e.cmd s).withEdges es :=
    wordNext_withRsp_withEdges e.cmd s s.rsp es
  rw [edgeNext, hr, if_neg Bool.false_ne_true, loadInput_rsp, portNext, if_pos hv, hword, State.withEdges_rsp]

/-- A step takes the first edge's inputs from the list (Log 1). -/
theorem step_of_edges_cons {s : State} {e : Edge} {es : List Edge} (h : s.edges = e :: es) :
    step s = .next (edgeNext e (s.withEdges es)) := by
  obtain ⟨hfront, hdrop⟩ := frontEdge_cons h
  rw [step_eq, hfront, hdrop]

/-- The steps of the first edges: those of the next edge, then those of the edges after it; past the list the edge is
idle and performs none (Log 3). -/
theorem transactions_take_succ (k : Nat) (es : List Edge) :
    (es.take (k + 1)).flatMap Edge.transactions =
      (es.headD Edge.idle).transactions ++ (es.tail.take k).flatMap Edge.transactions := by
  cases es with
  | nil => simp [Edge.transactions, Edge.idle]
  | cons e es => rfl

/-! ### Idempotence of a command's effect -/

/-- Setting a mask twice sets it once. -/
theorem setBits_idem (m r : Byte) : setBits m (setBits m r) = setBits m r := by
  simp only [setBits, BitVec.or_assoc, BitVec.or_self]

/-- Clearing a mask twice clears it once. -/
theorem clearBits_idem (m r : Byte) : clearBits m (clearBits m r) = clearBits m r := by
  simp only [clearBits, BitVec.and_assoc, BitVec.and_self]

/-- Replacing the window twice by the same value replaces it once. -/
theorem replaceWindow_idem (d r : Byte) : replaceWindow d (replaceWindow d r) = replaceWindow d r := by
  have hhigh : replaceWindow d r &&& Config.highMask = r &&& Config.highMask := replaceWindow_high d r
  rw [replaceWindow, hhigh, replaceWindow]

/-- Driving a mask twice to one level drives it once. -/
theorem driveMask_idem (m : Byte) (level : Bool) (r : Byte) :
    driveMask m level (driveMask m level r) = driveMask m level r := by
  cases level with
  | true => exact setBits_idem m r
  | false => exact clearBits_idem m r

/-- The directions a command forces are forced already when it is performed again. -/
theorem dirAfter_idem (i : Instr) (dir : Byte) : dirAfter i (dirAfter i dir) = dirAfter i dir :=
  driveMask_idem (dirMask i) (forcesOutput i) dir

/-- The levels a command writes are there already when it is performed again. -/
theorem outAfter_idem (i : Instr) (out : Byte) : outAfter i (outAfter i out) = outAfter i out := by
  cases i with
  | setPortOutput | setPortInput | setPinOutput _ | setPinInput _ | readPort | read _ | readInt _ => rfl
  | writePort data => exact replaceWindow_idem data out
  | write _ _ | writeInt _ _ => exact driveMask_idem _ _ out

/-- A command performed again at the state it left changes nothing: IN, which it answers from, is kept. -/
theorem completed_idem (i : Instr) (s : State) : completed i (completed i s) = completed i s := by
  have hdir : dirAfter i (completed i s).dir = (completed i s).dir := dirAfter_idem i s.dir
  have hout : outAfter i (completed i s).out = (completed i s).out := outAfter_idem i s.out
  rw [completed, hdir, hout]
  rfl

end Sys2Proof.Machine

/-! The statements of spec/20_memory.md. -/

namespace Sys2Proof.Proofs

open Sys2Proof.Machine

/-- Settles O53, by induction on the length of the run: each edge's registers are the fold of its own steps. -/
theorem runsRefineTheTransactionOrder : Obligations.RunsRefineTheTransactionOrder := by
  intro k
  induction k with
  | zero => exact fun s => ⟨s, rfl, rfl, rfl⟩
  | succ k ih =>
    intro s
    obtain ⟨t, hrun, hedges, hregs⟩ := ih (edgeNext (frontEdge s) (dropEdge s))
    rw [edgeNext_edges, dropEdge_edges] at hedges hregs
    refine ⟨t, by rw [run_succ, hrun], by rw [hedges, List.drop_tail], ?_⟩
    rw [hregs, edgeNext_registers, transactions_take_succ, foldTransactions_append]
    rfl

/-- Settles O21: the command's effect is idempotent, and the state it leaves is still RUNNING. -/
theorem commandsAreIdempotent : Obligations.CommandsAreIdempotent := by
  intro i s hs hi
  refine ⟨completed i s, exec_of_inDomain hs hi, ?_⟩
  rw [exec_of_inDomain (s := completed i s) hs hi, completed_idem]

/-- Settles O45. -/
theorem responseExactlyWhenAccepted : Obligations.ResponseExactlyWhenAccepted := by
  intro s t h
  rw [eq_edgeNext_of_step h]
  exact edgeNext_rsp_isSome (frontEdge s) (dropEdge s)

/-- Settles O48: both ways fold the same two steps, and the word's response does not depend on the edges to come. -/
theorem sameEdgeIsCommandThenLoad : Obligations.SameEdgeIsCommandThenLoad := by
  intro s w v es h
  refine ⟨_, _, _, step_of_edges_cons h, step_of_edges_cons rfl, step_of_edges_cons (edgeNext_edges _ _), ?_, ?_, ?_⟩
  · rw [edgeNext_registers, edgeNext_registers, State.withEdges_registers, State.withEdges_registers,
      edgeNext_registers, ← foldTransactions_append]
    rfl
  · exact (edgeNext_rsp_of_cmdValid rfl rfl s _).trans (edgeNext_rsp_of_cmdValid rfl rfl s _).symm
  · simp only [edgeNext_edges, State.withEdges_edges]

/-- Settles O38. -/
theorem inputLoadWritesOnlyInput : Obligations.InputLoadWritesOnlyInput := by
  intro s v es h
  rw [step_of_edges_cons h]
  rfl

end Sys2Proof.Proofs

/-! SUPPORT. Words: the fields an opcode uses fix what a word decodes to (R51, R52, R59), the bits a pin operand selects
(R55, R56), and what a word and an edge answer (R53). -/

namespace Sys2Proof.Machine

/-! ### The decoder -/

/-- The fields a format uses fix the command a word decodes to (R51, R52). -/
theorem decode_of_fields {w : CommandWord} {i : Instr} (hop : opField w = i.opcode)
    (hpin : i.format.usesPin = true → pinField w = i.pinOperand)
    (hdata : i.format.usesData = true → dataField w = i.dataOperand) : decode w = .ok i := by
  unfold decode
  rw [hop]
  cases i with
  | setPortOutput | setPortInput | readPort => rfl
  | setPinOutput _ | setPinInput _ | read _ | readInt _ => rw [hpin rfl]; rfl
  | writePort _ => rw [hdata rfl]; rfl
  | write _ _ | writeInt _ _ => rw [hpin rfl, hdata rfl]; rfl

/-- The decoder rejects a word by its opcode only (R59). -/
theorem error_of_decode_error {w : CommandWord} {err : DecodeError} (h : decode w = .error err) :
    err = .reservedOpcode (opField w) := by
  unfold decode at h
  split at h <;> cases h
  rfl

/-- A reserved opcode is rejected (R59). -/
theorem decode_of_reserved {w : CommandWord} (h : opField w = 0x00#8 ∨ 11 ≤ (opField w).toNat) :
    decode w = .error (.reservedOpcode (opField w)) := by
  cases hdec : decode w with
  | ok i => exact absurd (opcode_of_decode hdec ▸ h) (opcode_not_reserved i)
  | error err => rw [error_of_decode_error hdec]

/-- The opcodes whose format uses `PIN` (R51). -/
theorem usesPin_iff (i : Instr) : i.format.usesPin = true ↔ i.opcode ∈ pinOpcodes := by
  cases i <;> simp [Instr.format, Format.usesPin, Instr.opcode, pinOpcodes]

/-- The opcodes whose format uses `DATA` (R51). -/
theorem usesData_iff (i : Instr) : i.format.usesData = true ↔ i.opcode ∈ [0x05#8, 0x07#8, 0x09#8] := by
  cases i <;> simp [Instr.format, Format.usesData, Instr.opcode]

/-- A command whose format does not use `PIN` has zero there in its canonical word (R62). -/
theorem pinOperand_of_not_usesPin {i : Instr} (h : ¬i.format.usesPin = true) : i.pinOperand = 0x00#8 := by
  cases i with
  | setPortOutput | setPortInput | writePort _ | readPort => rfl
  | setPinOutput _ | setPinInput _ | write _ _ | read _ | writeInt _ _ | readInt _ => exact absurd rfl h

/-- A command whose format does not use `DATA` has zero there in its canonical word (R62). -/
theorem dataOperand_of_not_usesData {i : Instr} (h : ¬i.format.usesData = true) : i.dataOperand = 0x00#8 := by
  cases i with
  | setPortOutput | setPortInput | setPinOutput _ | setPinInput _ | readPort | read _ | readInt _ => rfl
  | writePort _ | write _ _ | writeInt _ _ => exact absurd rfl h

/-- A word that decodes to a command does what the command does. -/
theorem runWord_of_decode {w : CommandWord} {i : Instr} (h : decode w = .ok i) (s : State) :
    runWord w s = exec i s := by rw [runWord, h]

/-- A word with a reserved opcode raises IllegalCommand (R117). -/
theorem runWord_of_reserved {w : CommandWord} (h : opField w = 0x00#8 ∨ 11 ≤ (opField w).toNat) (s : State) :
    runWord w s = illegalCommand s := by rw [runWord, decode_of_reserved h]

/-! ### The pin operand -/

/-- The pin check accepts the operands below 5 (R55). -/
theorem validPin_iff (p : Byte) : validPin p = true ↔ p.toNat < 5 := by
  unfold validPin
  by_cases h : p.toNat < 5
  · simp [selectPin_of_lt h, h]
  · simp [selectPin_of_ge (Nat.le_of_not_lt h), h]

/-- The pin check on the operand's bits (R55). -/
theorem lt_five_iff_bits (p : Byte) : p.toNat < 5 ↔ p.extractLsb' 3 5 = 0b00000#5 ∧
    p.extractLsb' 0 3 ∈ [0b000#3, 0b001#3, 0b010#3, 0b011#3, 0b100#3] := by
  simp only [List.mem_cons, List.not_mem_nil, or_false, BitVec.toNat_eq, BitVec.extractLsb'_toNat,
    BitVec.toNat_ofNat, Nat.shiftRight_eq_div_pow]
  omega

/-- The five valid operands (R55). -/
theorem lt_five_iff_mem (p : Byte) : p.toNat < 5 ↔ p ∈ [0x00#8, 0x01#8, 0x02#8, 0x03#8, 0x04#8] := by
  simp only [List.mem_cons, List.not_mem_nil, or_false, BitVec.toNat_eq, BitVec.toNat_ofNat]
  omega

/-- The mask of a pin is one-hot at the pin (R56). -/
theorem getLsbD_bitmask (p : Pin) (k : Nat) : (bitmask p).getLsbD k = decide (k = p.val) := by
  have hp := pin_lt_eight p
  rw [bitmask, BitVec.getLsbD_shiftLeft, BitVec.getLsbD_one, Bool.eq_iff_iff]
  simp only [Nat.ofNat_pos, decide_true, Bool.true_and, Bool.and_eq_true, decide_eq_true_eq, Bool.not_eq_eq_eq_not,
    Bool.not_true, decide_eq_false_iff_not, not_lt]
  omega

/-- Masking with the pin's mask leaves something iff the pin's bit is set (R95). -/
theorem and_bitmask_ne_zero_iff (p : Pin) (r : Byte) : r &&& bitmask p ≠ 0x00#8 ↔ r.getLsbD p.val = true := by
  constructor
  · contrapose!
    intro h
    refine BitVec.eq_of_getLsbD_eq fun k _ => ?_
    rw [BitVec.getLsbD_and, getLsbD_bitmask, BitVec.getLsbD_zero]
    by_cases hk : k = p.val
    · rw [hk, Bool.eq_false_iff.mpr h, Bool.false_and]
    · rw [decide_eq_false hk, Bool.and_false]
  · intro h hzero
    have hbit := congrArg (BitVec.getLsbD · p.val) hzero
    simp [getLsbD_bitmask, h] at hbit

/-! ### Responses and faults -/

/-- A boolean as a returned value is 0 or 1 (R53). -/
theorem boolValue_eq_zero_or_one (b : Bool) : boolValue b = 0x00#8 ∨ boolValue b = 0x01#8 := by
  cases b
  · exact .inl rfl
  · exact .inr rfl

/-- Every command but readPort answers 0 or 1 (R53). -/
theorem valueFrom_eq_zero_or_one {i : Instr} (h : i ≠ .readPort) (inp : Byte) :
    valueFrom i inp = 0x00#8 ∨ valueFrom i inp = 0x01#8 := by
  cases i with
  | setPortOutput | setPortInput | writePort _ | write _ _ | writeInt _ _ => exact .inl rfl
  | setPinOutput _ | setPinInput _ => exact .inr rfl
  | readPort => exact absurd rfl h
  | read _ | readInt _ => exact boolValue_eq_zero_or_one _

/-- The window has bits 7:5 zero (R64). -/
theorem window_high (r : Byte) : window r &&& 0xE0#8 = 0x00#8 := by
  rw [window, BitVec.and_assoc, windowMask_high, BitVec.and_zero]

/-- The value a command answers has bits 7:5 zero (R53). -/
theorem valueFrom_high (i : Instr) (inp : Byte) : valueFrom i inp &&& 0xE0#8 = 0x00#8 := by
  by_cases hi : i = .readPort
  · subst hi
    exact window_high inp
  · obtain h | h := valueFrom_eq_zero_or_one hi inp <;> rw [h] <;> rfl

/-- A direction command on a pin answers 1 (R73, R74). -/
theorem valueFrom_of_pinDirection {i : Instr} (h : i.opcode = 0x03#8 ∨ i.opcode = 0x04#8) (inp : Byte) :
    valueFrom i inp = 0x01#8 := by
  cases i with
  | setPinOutput _ | setPinInput _ => rfl
  | _ => simp [Instr.opcode] at h

/-- The commands that return no value answer 0 (R53). -/
theorem valueFrom_of_noValue {i : Instr} (h : i.opcode ∈ [0x01#8, 0x02#8, 0x05#8, 0x07#8, 0x09#8]) (inp : Byte) :
    valueFrom i inp = 0x00#8 := by
  cases i with
  | setPortOutput | setPortInput | writePort _ | write _ _ | writeInt _ _ => rfl
  | setPinOutput _ | setPinInput _ | readPort | read _ | readInt _ => simp [Instr.opcode] at h

/-- A word accepted while RUNNING leaves the ladder's code in FAULT (R60). -/
theorem wordNext_fault {s : State} (hs : s.fault = 0b00#2) (w : CommandWord) :
    (wordNext w s).fault = faultLadder (opField w) (pinField w) (dataField w) := by
  rw [faultLadder_eq_outcomeCode, wordNext, if_pos hs]
  cases checkWord w with
  | ok i => exact hs
  | error c => rfl

/-- Masking one bit and shifting it down gives the bit (R95). -/
theorem mask_shift_eq_boolValue (r : Byte) (n : Nat) :
    (r &&& (0x01#8 <<< n)) >>> n = boolValue (r.getLsbD n) := by
  refine BitVec.eq_of_getLsbD_eq fun k hk => ?_
  have hbool : (boolValue (r.getLsbD n)).getLsbD k = (decide (k = 0) && r.getLsbD n) := by
    cases r.getLsbD n <;> simp [boolValue]
  rw [hbool, BitVec.getLsbD_ushiftRight, BitVec.getLsbD_and, BitVec.getLsbD_shiftLeft, BitVec.getLsbD_one]
  by_cases h0 : k = 0
  · subst h0
    by_cases hn : n < 8
    · simp [hn]
    · simp [hn, BitVec.getLsbD_of_ge r n (Nat.le_of_not_lt hn)]
  · simp [h0]

/-- A command's row of the table returns the value the command answers (R38, R53). -/
theorem accessOf_value (i : Instr) (r : Registers) :
    (accessOf i.opcode i.pinOperand i.dataOperand).value r = valueFrom i r.inp := by
  cases i with
  | setPortOutput | setPortInput | setPinOutput _ | setPinInput _ | writePort _ | write _ _ | writeInt _ _ =>
    simp [accessOf, Access.value, Instr.opcode, valueFrom, boolValue]
  | readPort => simp [accessOf, Access.value, Instr.opcode, valueFrom, window]
  | read pin | readInt pin =>
    simp [accessOf, Access.value, Instr.opcode, Instr.pinOperand, valueFrom, mask_shift_eq_boolValue]

/-- What a word is answered is what the ladder and the table give (R53, R113, R115). -/
theorem wordNext_rsp (w : CommandWord) (s : State) : (wordNext w s).rsp = answer w s.registers := by
  unfold wordNext answer
  by_cases hs : s.fault = 0b00#2
  · have hregs : ¬s.registers.fault ≠ 0b00#2 := not_not.mpr hs
    rw [if_pos hs, if_neg hregs, faultLadder_eq_outcomeCode]
    cases hc : checkWord w with
    | error c => exact (if_pos c.code_ne_zero).symm
    | ok i =>
      rw [accessOf_of_decode (checkWord_eq_ok hc).1, accessOf_value]
      rfl
  · have hregs : s.registers.fault ≠ 0b00#2 := hs
    rw [if_neg hs, if_pos hregs]
    rfl

/-- What an edge answers: its word's answer if it presents one and does not reset (R32). -/
theorem edgeNext_rsp (e : Edge) (s : State) :
    (edgeNext e s).rsp = if e.rst = false ∧ e.cmdValid = true then answer e.cmd s.registers else none := by
  unfold edgeNext portNext
  cases e.rst with
  | true => rfl
  | false =>
    cases e.cmdValid with
    | true => simp [wordNext_rsp]
    | false => simp

/-- FAULT after an edge that presents a word: the word's (R33: the load does not write it). -/
theorem edgeNext_fault_of_cmdValid {e : Edge} (hr : e.rst = false) (hv : e.cmdValid = true) (s : State) :
    (edgeNext e s).fault = (wordNext e.cmd s).fault := by
  simp [edgeNext, portNext, hr, hv]

/-- An edge without reset that presents a word: the word's outcome, then the load (R40). -/
theorem clockEdge_of_cmdValid {e : Edge} (hr : e.rst = false) (hv : e.cmdValid = true) (s : State) :
    clockEdge e s = andThen (runWord e.cmd s) (loadInput e) := by
  simp [clockEdge, commandPort, hr, hv]

end Sys2Proof.Machine

/-! SUPPORT. The textual form (R62, R63): which calls the assembler accepts, and how it reads the printed form of a
command. -/

namespace Sys2Proof.Machine

/-! ### Calls -/

/-- The assembler reads exactly the numerals in 0..255 as operand fields (R62). -/
theorem isByteNumeral_iff (a : Operand) : a.isByteNumeral = true ↔ ∃ b, byteOperand a = .ok b := by
  cases a with
  | numeral n => by_cases h : n < 256 <;> simp [Operand.isByteNumeral, byteOperand, h]
  | on | off | trueName | falseName => simp [Operand.isByteNumeral, byteOperand]

/-- The assembler reads exactly those and the four names as the data of `write` (R63). -/
theorem isByteOrName_iff (a : Operand) : a.isByteOrName = true ↔ ∃ b, writeOperand a = .ok b := by
  cases a with
  | numeral n => exact isByteNumeral_iff (.numeral n)
  | on | off | trueName | falseName => simp [Operand.isByteOrName, writeOperand]

/-- A command made of one operand is there iff the operand is. -/
theorem exists_map_eq_ok {α β ε : Type} (f : α → β) (x : Except ε α) :
    (∃ i, x.map f = .ok i) ↔ ∃ a, x = .ok a := by
  cases x <;> simp [Except.map]

/-- The assembler rejects a wrong number of operands (R62). -/
theorem assembleCall_of_length_ne {c : Call} (h : c.args.length ≠ c.name.format.arity) :
    assembleCall c = .error .wrongOperandCount := by
  unfold assembleCall
  split
  case h_11 => rfl
  all_goals
    next hname hargs =>
      rw [hname, hargs] at h
      exact (h rfl).elim

/-- Both operands of `write` have to be read (R63). -/
theorem assembleCall_write (p d : Operand) : (∃ i, assembleCall ⟨.write, [p, d]⟩ = .ok i) ↔
    (∃ b, byteOperand p = .ok b) ∧ ∃ b, writeOperand d = .ok b := by
  cases hp : byteOperand p <;> cases hd : writeOperand d <;> simp [assembleCall, hp, hd]

/-- Both operands of `writeInt` have to be read (R62). -/
theorem assembleCall_writeInt (p d : Operand) : (∃ i, assembleCall ⟨.writeInt, [p, d]⟩ = .ok i) ↔
    (∃ b, byteOperand p = .ok b) ∧ ∃ b, byteOperand d = .ok b := by
  cases hp : byteOperand p <;> cases hd : byteOperand d <;> simp [assembleCall, hp, hd]

/-- With the right number of operands, a call is well-formed iff its operands can be read. -/
theorem wellFormed_iff_of_length_eq {c : Call} (h : c.args.length = c.name.format.arity) :
    c.wellFormed = true ↔ ∃ i, assembleCall c = .ok i := by
  obtain ⟨name, args⟩ := c
  cases name with
  | setPortOutput | setPortInput | readPort =>
    obtain rfl := List.length_eq_zero_iff.mp h
    exact iff_of_true rfl ⟨_, rfl⟩
  | setPinOutput | setPinInput | writePort | read | readInt =>
    obtain ⟨a, rfl⟩ := List.length_eq_one_iff.mp h
    refine Iff.trans ?_ (exists_map_eq_ok _ (byteOperand a)).symm
    rw [← isByteNumeral_iff]
    simp [Call.wellFormed, ← h]
  | write =>
    obtain ⟨p, d, rfl⟩ := List.length_eq_two.mp h
    rw [assembleCall_write, ← isByteNumeral_iff, ← isByteOrName_iff]
    simp [Call.wellFormed, ← h]
  | writeInt =>
    obtain ⟨p, d, rfl⟩ := List.length_eq_two.mp h
    rw [assembleCall_writeInt, ← isByteNumeral_iff, ← isByteNumeral_iff]
    simp [Call.wellFormed, ← h]

/-! ### Printed commands -/

/-- A text with no blank at its ends is not shortened. -/
theorem trim_of_ends {a b : Char} (ha : isBlank a = false) (hb : isBlank b = false) (mid : List Char) :
    trim (a :: (mid ++ [b])) = a :: (mid ++ [b]) := by
  have hlast : (a :: (mid ++ [b])).reverse = b :: (mid.reverse ++ [a]) := by simp
  rw [trim, List.dropWhile_cons_of_neg (by simp [ha]), hlast, List.dropWhile_cons_of_neg (by simp [hb]), ← hlast,
    List.reverse_reverse]

/-- The text between the parentheses of a call as its operands: none where it is blank. -/
def operandsOf (inner : List Char) : Except AsmError (List Operand) :=
  if trim inner = [] then .ok [] else parseOperands (splitAtChar ',' inner)

/-- How the source spells each operation (R62). -/
def spelling : Operation → String
  | .setPortOutput => "setPortOutput"
  | .setPortInput => "setPortInput"
  | .setPinOutput => "setPinOutput"
  | .setPinInput => "setPinInput"
  | .writePort => "writePort"
  | .readPort => "readPort"
  | .write => "write"
  | .read => "read"
  | .writeInt => "writeInt"
  | .readInt => "readInt"

/-- The assembler knows each operation by its spelling. -/
theorem spelling_mem (op : Operation) : ((spelling op).toList, op) ∈ operationNames := by
  cases op <;> simp only [spelling, operationNames, List.mem_cons, true_or, or_true]

/-- The names of the operations are non-empty, hold no blank and no mark that ends them or begins a comment, and are
looked up under themselves. -/
theorem operationNames_readable : ∀ p ∈ operationNames,
    p.1 ≠ [] ∧ '(' ∉ p.1 ∧ ';' ∉ p.1 ∧ p.1.any isBlank = false ∧
      operationNames.lookup (trim p.1) = some p.2 := by
  unfold operationNames
  repeat rw [String.toList_ofList]
  decide +kernel

/-- The same of an operation's spelling. -/
theorem spelling_readable (op : Operation) :
    (spelling op).toList ≠ [] ∧ '(' ∉ (spelling op).toList ∧ ';' ∉ (spelling op).toList ∧
      (spelling op).toList.any isBlank = false ∧ operationNames.lookup (trim (spelling op).toList) = some op :=
  operationNames_readable _ (spelling_mem op)

/-- The printed form of a call reads as the call: the name up to the first `(`, the operands up to the last `)`. -/
theorem parseCall_printCall (op : Operation) {operands : List Char} {args : List Operand}
    (hargs : operandsOf operands = .ok args) :
    parseCall (printCall (spelling op) operands) = .ok ⟨op, args⟩ := by
  obtain ⟨-, hparen, -, -, hlookup⟩ := spelling_readable op
  have hne : ∀ c ∈ (spelling op).toList, (c != '(') = true := fun c hc => by
    simpa using fun h : c = '(' => hparen (h ▸ hc)
  have hshape : printCall (spelling op) operands = (spelling op).toList ++ '(' :: (operands ++ [')']) :=
    List.append_assoc _ _ _
  have hdrop : (printCall (spelling op) operands).dropWhile (· != '(') = '(' :: (operands ++ [')']) := by
    rw [hshape, List.dropWhile_append_of_pos hne]
    rfl
  have htake : (printCall (spelling op) operands).takeWhile (· != '(') = (spelling op).toList := by
    rw [hshape, List.takeWhile_append_of_pos hne]
    exact List.append_nil _
  have hreverse : (printCall (spelling op) operands).reverse =
      ')' :: ((spelling op).toList ++ '(' :: operands).reverse := by
    rw [printCall, List.reverse_append]
    rfl
  have hinner : (('(' :: (operands ++ [')'])).drop 1).dropLast = operands := List.dropLast_concat
  rw [operandsOf] at hargs
  simp only [parseCall, hdrop, htake, hreverse, hinner, hlookup, hargs]

/-- The printed form of a call has no blank at its ends. -/
theorem trim_printCall (op : Operation) (operands : List Char) :
    trim (printCall (spelling op) operands) = printCall (spelling op) operands := by
  obtain ⟨hnonempty, -, -, hblank, -⟩ := spelling_readable op
  obtain ⟨a, rest, htext⟩ := List.exists_cons_of_ne_nil hnonempty
  have ha : isBlank a = false := by simpa using List.any_eq_false.mp hblank a (htext ▸ List.mem_cons_self)
  rw [printCall, htext]
  exact trim_of_ends ha (by decide) (rest ++ '(' :: operands)

/-- The printed form of a call whose operands hold no comment is a line that assembles to the call's command. -/
theorem assembleLine_printCall (op : Operation) {operands : List Char} {args : List Operand} {i : Instr}
    (hcomment : ';' ∉ operands) (hargs : operandsOf operands = .ok args)
    (hcall : assembleCall ⟨op, args⟩ = .ok i) :
    assembleLine (printCall (spelling op) operands) = .ok (some (encode i)) := by
  obtain ⟨-, -, hsemi, -, -⟩ := spelling_readable op
  have hline : (printCall (spelling op) operands).takeWhile (· != ';') = printCall (spelling op) operands := by
    have hne : ';' ∉ printCall (spelling op) operands := by simp [printCall, hsemi, hcomment]
    refine List.takeWhile_eq_self_iff.mpr fun c hc => ?_
    simpa using fun h : c = ';' => hne (h ▸ hc)
  have htrim := trim_printCall op operands
  have hparse := parseCall_printCall op hargs
  obtain ⟨c, cs, hcons⟩ := List.exists_cons_of_ne_nil (l := printCall (spelling op) operands) (by simp [printCall])
  rw [hcons] at hline htrim hparse ⊢
  simp only [assembleLine, hline, htrim, hparse, hcall]

/-- A printed operand holds neither a comma nor the mark of a comment. -/
theorem notMem_hexNumeral (b : Byte) : ',' ∉ hexNumeral b ∧ ';' ∉ hexNumeral b := by
  obtain ⟨hcomma, hsemi, -⟩ := hexDigit_ne (b.extractLsb' 4 4)
  obtain ⟨hcomma', hsemi', -⟩ := hexDigit_ne (b.extractLsb' 0 4)
  simp [hexNumeral, hcomma.symm, hcomma'.symm, hsemi.symm, hsemi'.symm]

/-- A text of operands that begins and ends with no blank is read between its commas. -/
theorem operandsOf_of_ends {a b : Char} (ha : isBlank a = false) (hb : isBlank b = false) (mid : List Char) :
    operandsOf (a :: (mid ++ [b])) = parseOperands (splitAtChar ',' (a :: (mid ++ [b]))) := by
  rw [operandsOf, if_neg]
  rw [trim_of_ends ha hb]
  exact List.cons_ne_nil _ _

/-- One printed operand reads as its number. -/
theorem operandsOf_hexNumeral (b : Byte) : operandsOf (hexNumeral b) = .ok [.numeral b.toNat] := by
  obtain ⟨-, -, -, -, hblank⟩ := hexDigit_ne (b.extractLsb' 0 4)
  refine (operandsOf_of_ends (a := '0') (by decide) hblank ['x', _]).trans ?_
  change parseOperands (splitAtChar ',' (hexNumeral b)) = _
  rw [splitAtChar_of_notMem (notMem_hexNumeral b).1]
  simp only [parseOperands, (parseOperand_hexNumeral b).1]

/-- Two printed operands read as their numbers, in order. -/
theorem operandsOf_hexNumeral_pair (a b : Byte) :
    operandsOf (hexNumeral a ++ ',' :: ' ' :: hexNumeral b) = .ok [.numeral a.toNat, .numeral b.toNat] := by
  obtain ⟨-, -, -, -, hblank⟩ := hexDigit_ne (b.extractLsb' 0 4)
  refine (operandsOf_of_ends (a := '0') (by decide) hblank ['x', _, _, ',', ' ', '0', 'x', _]).trans ?_
  change parseOperands (splitAtChar ',' (hexNumeral a ++ ',' :: ' ' :: hexNumeral b)) = _
  have hcomma : ',' ∉ ' ' :: hexNumeral b := by simp [(notMem_hexNumeral b).1]
  rw [splitAtChar_append (notMem_hexNumeral a).1, splitAtChar_of_notMem hcomma]
  simp only [parseOperands, (parseOperand_hexNumeral a).1, (parseOperand_hexNumeral b).2]

/-- Two printed operands hold no comment. -/
theorem semicolon_notMem_pair (a b : Byte) : ';' ∉ hexNumeral a ++ ',' :: ' ' :: hexNumeral b := by
  simp [(notMem_hexNumeral a).2, (notMem_hexNumeral b).2]

/-- A command without operands, printed. -/
theorem assembleLine_printNone (op : Operation) {i : Instr} (hcall : assembleCall ⟨op, []⟩ = .ok i) :
    assembleLine (printCall (spelling op) []) = .ok (some (encode i)) :=
  assembleLine_printCall op List.not_mem_nil rfl hcall

/-- A command with one operand, printed. -/
theorem assembleLine_printOne (op : Operation) {a : Byte} {i : Instr}
    (hcall : assembleCall ⟨op, [.numeral a.toNat]⟩ = .ok i) :
    assembleLine (printCall (spelling op) (hexNumeral a)) = .ok (some (encode i)) :=
  assembleLine_printCall op (notMem_hexNumeral a).2 (operandsOf_hexNumeral a) hcall

/-- A command with two operands, printed. -/
theorem assembleLine_printTwo (op : Operation) {a b : Byte} {i : Instr}
    (hcall : assembleCall ⟨op, [.numeral a.toNat, .numeral b.toNat]⟩ = .ok i) :
    assembleLine (printCall (spelling op) (hexNumeral a ++ ',' :: ' ' :: hexNumeral b)) = .ok (some (encode i)) :=
  assembleLine_printCall op (semicolon_notMem_pair a b) (operandsOf_hexNumeral_pair a b) hcall

end Sys2Proof.Machine

/-! The statements of spec/30_encoding.md. -/

namespace Sys2Proof.Proofs

open Sys2Proof.Machine

/-- Settles O1: the canonical word carries the command's opcode and operands. -/
theorem decodeEncodeAgree : Obligations.DecodeEncodeAgree :=
  fun _ => decode_of_fields (opField_commandWord _ _ _) (fun _ => pinField_commandWord _ _ _)
    (fun _ => dataField_commandWord _ _ _)

/-- Settles O2: a field is used and kept, or unused and zero. -/
theorem decodedCommandKeepsUsedFields : Obligations.DecodedCommandKeepsUsedFields := by
  intro w i h
  obtain ⟨hop, hpin, hdata⟩ := fields_of_decode h
  have hp : i.pinOperand = if i.format.usesPin then pinField w else 0x00#8 := by
    split
    · next hu => exact (hpin hu).symm
    · next hu => exact pinOperand_of_not_usesPin hu
  have hd : i.dataOperand = if i.format.usesData then dataField w else 0x00#8 := by
    split
    · next hu => exact (hdata hu).symm
    · next hu => exact dataOperand_of_not_usesData hu
  exact ⟨hop.symm, by rw [encode, hop, ← hp, ← hd]⟩

/-- Settles O3: a word that is not rejected has no reserved opcode, and one that is has. -/
theorem decoderRejectsExactlyReservedOpcodes : Obligations.DecoderRejectsExactlyReservedOpcodes := by
  refine fun w => ⟨decode_of_reserved, fun ⟨hne, hlt⟩ => ?_⟩
  cases hdec : decode w with
  | ok i => exact ⟨i, rfl⟩
  | error err =>
    obtain h | h := reserved_of_decode_error hdec
    · exact absurd h hne
    · exact absurd hlt (Nat.not_lt.mpr h)

/-- Settles O4: the two words decode to one command, or are both reserved. -/
theorem ignoredFieldsHaveNoEffect : Obligations.IgnoredFieldsHaveNoEffect := by
  intro w v s hop hpin hdata
  cases hdec : decode w with
  | ok i =>
    obtain ⟨hwop, hwpin, hwdata⟩ := fields_of_decode hdec
    have hv : decode v = .ok i := by
      refine decode_of_fields (hop ▸ hwop) (fun hu => ?_) (fun hu => ?_)
      · rw [← hpin (hwop ▸ (usesPin_iff i).mp hu), hwpin hu]
      · rw [← hdata (hwop ▸ (usesData_iff i).mp hu), hwdata hu]
    rw [runWord_of_decode hdec, runWord_of_decode hv]
  | error err =>
    have hres := reserved_of_decode_error hdec
    rw [runWord_of_reserved hres, runWord_of_reserved (hop ▸ hres)]

/-- Settles O22: by whether the command's arguments are inside their domains. -/
theorem responseValueLaw : Obligations.ResponseValueLaw := by
  intro i s hs
  cases hi : i.inDomain with
  | true =>
    have hrsp : (completed i s).rsp = some ⟨(completed i s).fault, valueFrom i s.inp⟩ := by
      rw [completed_rsp, completed_fault, hs]
      rfl
    exact ⟨completed i s, valueFrom i s.inp, exec_of_inDomain hs hi, hrsp, valueFrom_high i s.inp,
      fun hne => valueFrom_eq_zero_or_one hne s.inp, fun hf => absurd hs hf,
      fun _ hop => valueFrom_of_pinDirection hop s.inp, fun _ hop => valueFrom_of_noValue hop s.inp⟩
  | false =>
    have hcode : (faulted (faultCause i) s).fault ≠ 0b00#2 := (faultCause i).code_ne_zero
    exact ⟨faulted (faultCause i) s, 0x00#8, exec_of_not_inDomain hs hi, rfl, rfl, fun _ => .inl rfl,
      fun _ => rfl, fun h => absurd h hcode, fun h => absurd h hcode⟩

/-- Settles O30: the ladder over the raw fields is the one of Machine/Transaction.lean. -/
theorem faultPriorityOnTheWord : Obligations.FaultPriorityOnTheWord := by
  intro s e es h hr hv hs
  refine ⟨_, step_of_edges_cons h, ?_⟩
  rw [edgeNext_fault_of_cmdValid hr hv, wordNext_fault (s := s.withEdges es) hs]
  rfl

/-- Settles O42: nothing an edge does stops the model or takes another edge. -/
theorem everyStepCompletes : Obligations.EveryStepCompletes :=
  fun s => ⟨_, step_eq s, edgeNext_edges _ _⟩

/-- Settles O52: by what an edge and its word are answered. -/
theorem responseMatchesAccessTable : Obligations.ResponseMatchesAccessTable := by
  intro s t h
  rw [eq_edgeNext_of_step h, edgeNext_rsp]
  rfl

/-- Settles O6: each form says that the operand is below 5. -/
theorem validPinIsBelowFive : Obligations.ValidPinIsBelowFive :=
  fun p => ⟨validPin_iff p, (validPin_iff p).trans (lt_five_iff_bits p), (validPin_iff p).trans (lt_five_iff_mem p)⟩

/-- Settles O7: each form of the selected bit is the register's bit at the pin. -/
theorem pinSelectIsOneHot : Obligations.PinSelectIsOneHot :=
  fun p r => ⟨getLsbD_bitmask p, bitmask_high p, bitAt_eq p r,
    (bitAt_eq p r).trans (if_congr (and_bitmask_ne_zero_iff p r).symm rfl rfl)⟩

/-- Settles O39: the decoded word's meaning is the command's. -/
theorem stepRunsTheDecodedCommand : Obligations.StepRunsTheDecodedCommand := by
  intro s e es i h hr hv hdec
  obtain ⟨hfront, hdrop⟩ := frontEdge_cons h
  rw [step, hfront, hdrop, clockEdge_of_cmdValid hr hv, runWord_of_decode hdec]
  exact congrArg (andThen _) (funext (loadInput_eq e))

/-- Settles O55: with a wrong number of operands both sides fail. -/
theorem assemblerAcceptsExactlyWellFormedCalls : Obligations.AssemblerAcceptsExactlyWellFormedCalls := by
  intro c
  by_cases hlen : c.args.length = c.name.format.arity
  · exact wellFormed_iff_of_length_eq hlen
  · refine iff_of_false ?_ ?_
    · simp [Call.wellFormed, hlen]
    · simp [assembleCall_of_length_ne hlen]

/-- Settles O56: each command prints as its operation's spelling and as many operands as its format takes. -/
theorem printedCommandAssembles : Obligations.PrintedCommandAssembles := by
  intro i
  cases i with
  | setPortOutput => exact assembleLine_printNone .setPortOutput rfl
  | setPortInput => exact assembleLine_printNone .setPortInput rfl
  | setPinOutput pin => exact assembleLine_printOne .setPinOutput (congrArg (Except.map _) (byteOperand_toNat pin))
  | setPinInput pin => exact assembleLine_printOne .setPinInput (congrArg (Except.map _) (byteOperand_toNat pin))
  | writePort data => exact assembleLine_printOne .writePort (congrArg (Except.map _) (byteOperand_toNat data))
  | readPort => exact assembleLine_printNone .readPort rfl
  | write pin data =>
    exact assembleLine_printTwo .write (by simp [assembleCall, writeOperand, byteOperand_toNat])
  | read pin => exact assembleLine_printOne .read (congrArg (Except.map _) (byteOperand_toNat pin))
  | writeInt pin data => exact assembleLine_printTwo .writeInt (by simp [assembleCall, byteOperand_toNat])
  | readInt pin => exact assembleLine_printOne .readInt (congrArg (Except.map _) (byteOperand_toNat pin))

/-- Settles O54: the assembler evaluates each fixed line, its text written out as characters. -/
theorem textExamplesAssemble : Obligations.TextExamplesAssemble := by
  unfold Obligations.TextExamplesAssemble
  repeat rw [String.toList_ofList]
  decide +kernel

/-- Settles O57: the assembler evaluates the five fixed texts, written out as characters. -/
theorem specProgramTextsAssemble : Obligations.SpecProgramTextsAssemble := by
  unfold Obligations.SpecProgramTextsAssemble
  simp only [String.toList_append]
  repeat rw [String.toList_ofList]
  decide +kernel

end Sys2Proof.Proofs

/-! SUPPORT. Direction commands: two commands of one mask leave what the last one leaves (R64), and a command with an
invalid pin takes InvalidPinIndex (R111). -/

namespace Sys2Proof.Machine

/-- Bit k of DIR after a command on one pin: the forced direction at the pin, the old bit elsewhere (R56). -/
theorem getLsbD_dirAfter_of_pin {i : Instr} {p : Pin} (hmask : dirMask i = bitmask p) (dir : Byte) (k : Nat) :
    (dirAfter i dir).getLsbD k = if k = p.val then forcesOutput i else dir.getLsbD k := by
  by_cases hk : k < 8
  · simp only [getLsbD_dirAfter i dir hk, hmask, getLsbD_bitmask, decide_eq_true_eq]
  · have hne : k ≠ p.val := by have := pin_lt_eight p; omega
    rw [if_neg hne, BitVec.getLsbD_of_ge _ k (Nat.le_of_not_lt hk), BitVec.getLsbD_of_ge _ k (Nat.le_of_not_lt hk)]

/-- Of two commands of one mask the last fixes the directions. -/
theorem dirAfter_dirAfter {i j : Instr} (hmask : dirMask i = dirMask j) (dir : Byte) :
    dirAfter i (dirAfter j dir) = dirAfter i dir := by
  refine BitVec.eq_of_getLsbD_eq fun k hk => ?_
  rw [getLsbD_dirAfter i _ hk, getLsbD_dirAfter i _ hk, getLsbD_dirAfter j _ hk, hmask]
  split <;> rfl

/-- A command leaves the same state after another of its mask as alone, if it overwrites what that one wrote to OUT. -/
theorem completed_completed {i j : Instr} (hmask : dirMask i = dirMask j)
    (hout : ∀ out, outAfter i (outAfter j out) = outAfter i out) (s : State) :
    completed i (completed j s) = completed i s := by
  have hdir : dirAfter i (completed j s).dir = dirAfter i s.dir := dirAfter_dirAfter hmask s.dir
  have hlevel : outAfter i (completed j s).out = outAfter i s.out := hout s.out
  rw [completed, hdir, hlevel]
  rfl

/-- The second of two commands on one pin that do not write OUT: it leads where it leads alone, forces its own
direction on the pin and keeps every other bit and register of the state before the pair (R70, R74). -/
theorem exec_pair_of_same_pin {i j : Instr} {p : Pin} {s : State} (hs : s.fault = 0b00#2)
    (hi : i.inDomain = true) (hj : j.inDomain = true) (hmi : dirMask i = bitmask p) (hmj : dirMask j = bitmask p)
    (hoi : ∀ out, outAfter i out = out) (hoj : ∀ out, outAfter j out = out) :
    ∃ t u, exec j s = .next t ∧ exec i t = .next u ∧ exec i s = .next u ∧
      u.dir.getLsbD p.val = forcesOutput i ∧ (∀ k : Nat, k ≠ p.val → u.dir.getLsbD k = s.dir.getLsbD k) ∧
      u.out = s.out ∧ u.inp = s.inp ∧ u.fault = s.fault := by
  have hpair : exec i (completed j s) = .next (completed i s) := by
    rw [exec_of_inDomain (s := completed j s) hs hi, completed_completed (hmi.trans hmj.symm) (fun out => by rw [hoj])]
  refine ⟨completed j s, completed i s, exec_of_inDomain hs hj, hpair, exec_of_inDomain hs hi, ?_, fun k hk => ?_,
    hoi s.out, rfl, rfl⟩
  · rw [completed_dir, getLsbD_dirAfter_of_pin hmi, if_pos rfl]
  · rw [completed_dir, getLsbD_dirAfter_of_pin hmi, if_neg hk]

/-- Clearing the window keeps exactly the high bits: `0xE0` is the complement of `0x1F` (R72). -/
theorem clearBits_windowMask (r : Byte) : clearBits Config.windowMask r = r &&& 0xE0#8 := by
  have hcompl : ~~~Config.windowMask = 0xE0#8 := by decide
  rw [clearBits, hcompl]

/-- A command with an invalid pin is out of its domain, whatever its other operand (R146). -/
theorem not_inDomain_of_invalidPin {i : Instr} (hp : pinInDomain i.pinOperand = false) : i.inDomain = false := by
  cases i with
  | setPortOutput | setPortInput | writePort _ | readPort => cases hp
  | setPinOutput _ | setPinInput _ | write _ _ | read _ | readInt _ => exact hp
  | writeInt pin data => exact Bool.and_eq_false_iff.mpr (.inl hp)

/-- R111: an accepted command with a pin of 5 or more takes InvalidPinIndex. -/
theorem exec_of_invalidPin {i : Instr} {s : State} (hs : s.fault = 0b00#2) (hp : 5 ≤ i.pinOperand.toNat) :
    exec i s = .next (faulted .invalidPinIndex s) := by
  have hpin : pinInDomain i.pinOperand = false := decide_eq_false (Nat.not_lt.mpr hp)
  rw [exec_of_not_inDomain hs (not_inDomain_of_invalidPin hpin), faultCause_of_invalidPin hpin]

end Sys2Proof.Machine

/-! The statements of spec/40_direction_ops.md. -/

namespace Sys2Proof.Proofs

open Sys2Proof.Machine

/-- Settles O24: both commands force the direction of the one pin and do not write OUT. -/
theorem lastDirectionCommandWins : Obligations.LastDirectionCommandWins := by
  intro pin s hs hpin
  have hset : (Instr.setPinOutput pin).inDomain = true := decide_eq_true hpin
  have hclear : (Instr.setPinInput pin).inDomain = true := decide_eq_true hpin
  exact ⟨exec_pair_of_same_pin (p := ⟨pin.toNat, hpin⟩) hs hclear hset rfl rfl (fun _ => rfl) (fun _ => rfl),
    exec_pair_of_same_pin (p := ⟨pin.toNat, hpin⟩) hs hset hclear rfl rfl (fun _ => rfl) (fun _ => rfl)⟩

/-- Settles O8: the opcode alone selects the command, which sets the bits of the window. -/
theorem setPortOutputMakesAllPinsOutputs : Obligations.SetPortOutputMakesAllPinsOutputs :=
  ⟨fun _ hop => decode_of_fields hop nofun nofun, rfl, fun _ hs => exec_of_inDomain hs rfl⟩

/-- Settles O9: the opcode alone selects the command, which keeps the bits outside the window. -/
theorem setPortInputMakesAllPinsInputs : Obligations.SetPortInputMakesAllPinsInputs := by
  refine ⟨fun _ hop => decode_of_fields hop nofun nofun, rfl, fun s hs => ?_⟩
  rw [exec_of_inDomain hs rfl, ← clearBits_windowMask]
  rfl

/-- Settles O10: a valid pin is in the command's domain, an invalid one takes the fault. -/
theorem setPinOutputMakesOnePinAnOutput : Obligations.SetPinOutputMakesOnePinAnOutput :=
  ⟨fun _ hop => decode_of_fields hop (fun _ => rfl) nofun, fun _ => rfl, fun _ _ hs =>
    ⟨fun hpin => exec_of_inDomain hs (decide_eq_true hpin), fun hpin => exec_of_invalidPin hs hpin⟩⟩

/-- Settles O11: a valid pin is in the command's domain, an invalid one takes the fault. -/
theorem setPinInputMakesOnePinAnInput : Obligations.SetPinInputMakesOnePinAnInput :=
  ⟨fun _ hop => decode_of_fields hop (fun _ => rfl) nofun, fun _ => rfl, fun _ _ hs =>
    ⟨fun hpin => exec_of_inDomain hs (decide_eq_true hpin), fun hpin => exec_of_invalidPin hs hpin⟩⟩

end Sys2Proof.Proofs

/-! The statements of spec/41_port_access_ops.md. -/

namespace Sys2Proof.Proofs

open Sys2Proof.Machine

/-- Settles O12: the data field is the one operand read and every value of it is in the domain; the command sets the
window's bits of DIR and replaces those of OUT (R57). -/
theorem writePortDrivesTheWindow : Obligations.WritePortDrivesTheWindow :=
  ⟨fun _ hop => decode_of_fields hop nofun (fun _ => rfl), fun _ => rfl, fun _ _ hs => exec_of_inDomain hs rfl⟩

/-- Settles O13: the opcode alone selects the command, which keeps the bits of DIR outside the window. -/
theorem readPortReturnsTheWindow : Obligations.ReadPortReturnsTheWindow := by
  refine ⟨fun _ hop => decode_of_fields hop nofun nofun, rfl, fun s hs => ?_⟩
  rw [exec_of_inDomain hs rfl, ← clearBits_windowMask]
  rfl

end Sys2Proof.Proofs

/-! SUPPORT. The operand forms and results of the pin access commands: what ties `write` to `writeInt` and `read` to
`readInt`, and OUT after a write of one pin. -/

namespace Sys2Proof.Machine

/-- The bit check passes a coerced operand on as the boolean it stands for (R58, R91). -/
theorem requireBit_coerced (data : Byte) (s : State) (body : Bool → Out) :
    requireBit (if data = 0x00#8 then 0x00#8 else 0x01#8) s body = body (boolOperand data) := by
  rw [requireBit_eq]
  by_cases hd : data = 0x00#8
  · rw [hd]; rfl
  · have htrue : boolOperand data = true := bne_iff_ne.mpr hd
    rw [if_neg hd, htrue]
    rfl

/-- The sensed bit is already `0x00` or `0x01`, so coercing it to a boolean keeps the value (R92, R95). -/
theorem boolValue_bitAt_bne_zero (p : Pin) (r : Byte) : boolValue (bitAt p r != 0x00#8) = bitAt p r := by
  rw [bitAt_bne_zero, bitAt_eq]

/-- The bit values of R58 are the numbers below 2. -/
theorem lt_two_iff (data : Byte) : data.toNat < 2 ↔ data = 0x00#8 ∨ data = 0x01#8 := by
  rw [← BitVec.toNat_inj, ← BitVec.toNat_inj, BitVec.toNat_ofNat, BitVec.toNat_ofNat]
  omega

/-- OUT after `write`: every operand but zero sets the pin's bit (R58, R91). -/
theorem outAfter_write (pin data out : Byte) : outAfter (.write pin data) out =
    if data ≠ 0x00#8 then out ||| (0x01#8 <<< pin.toNat) else out &&& ~~~(0x01#8 <<< pin.toNat) :=
  if_congr bne_iff_ne rfl rfl

/-- OUT after `writeInt` of a bit value: 1 sets the pin's bit and 0 clears it (R93). -/
theorem outAfter_writeInt (pin data out : Byte) : outAfter (.writeInt pin data) out =
    if data = 0x01#8 then out ||| (0x01#8 <<< pin.toNat) else out &&& ~~~(0x01#8 <<< pin.toNat) :=
  if_congr beq_iff_eq rfl rfl

/-- R112: an accepted `writeInt` with a valid pin and a value other than 0 and 1 takes InvalidBitValue. -/
theorem exec_writeInt_of_invalidBit {pin data : Byte} {s : State} (hs : s.fault = 0b00#2) (hpin : pin.toNat < 5)
    (hdata : ¬data.toNat < 2) : exec (.writeInt pin data) s = .next (faulted .invalidBitValue s) := by
  have hdom : (Instr.writeInt pin data).inDomain = false := Bool.and_eq_false_iff.mpr (.inr (decide_eq_false hdata))
  have hcause : faultCause (.writeInt pin data) = .invalidBitValue := faultCause_of_validPin (decide_eq_true hpin)
  rw [exec_of_not_inDomain hs hdom, hcause]

end Sys2Proof.Machine

/-! The statements of spec/42_pin_access_ops.md. -/

namespace Sys2Proof.Proofs

open Sys2Proof.Machine

/-- Settles O18: both check acceptance and the pin alike, then the bit check passes the coerced operand on. -/
theorem writeIsWriteIntOfTheBoolean : Obligations.WriteIsWriteIntOfTheBoolean := by
  intro pin data s
  have hbody (p : Pin) := requireBit_coerced data s fun level => complete 0x00#8 (drivePin p level s)
  exact congrArg (fun body => accept s (requirePin pin s body)) (funext fun p => (hbody p).symm)

/-- Settles O19: both check acceptance and the pin alike, and the coercion of the sensed bit keeps it. -/
theorem readIsReadInt : Obligations.ReadIsReadInt := by
  intro pin s
  have hbody (p : Pin) := congrArg (complete · (forceInput (bitmask p) s)) (boolValue_bitAt_bne_zero p s.inp)
  exact congrArg (fun body => accept s (requirePin pin s body)) (funext hbody)

/-- Settles O14: a valid pin puts the command in its domain whatever the data, an invalid one takes the fault. -/
theorem writeDrivesOnePin : Obligations.WriteDrivesOnePin := by
  refine ⟨fun _ hop => decode_of_fields hop (fun _ => rfl) (fun _ => rfl), fun _ _ => rfl, fun pin data s hs =>
    ⟨fun hpin => ?_, fun hpin => exec_of_invalidPin hs hpin⟩⟩
  have hdom : (Instr.write pin data).inDomain = true := decide_eq_true hpin
  rw [exec_of_inDomain hs hdom, ← outAfter_write]
  rfl

/-- Settles O17: a valid pin is in the command's domain, an invalid one takes the fault. -/
theorem readIntReturnsOnePin : Obligations.ReadIntReturnsOnePin :=
  ⟨fun _ hop => decode_of_fields hop (fun _ => rfl) nofun, fun _ => rfl, fun _ _ hs =>
    ⟨fun hpin => exec_of_inDomain hs (decide_eq_true hpin), fun hpin => exec_of_invalidPin hs hpin⟩⟩

/-- Settles O15: the word and its fields are `read`'s own, what it does is what `readInt` does (O19, O17). -/
theorem readReturnsOnePin : Obligations.ReadReturnsOnePin := by
  refine ⟨fun _ hop => decode_of_fields hop (fun _ => rfl) nofun, fun _ => rfl, fun pin s hs => ?_⟩
  obtain ⟨-, -, hreadInt⟩ := readIntReturnsOnePin
  rw [readIsReadInt pin s]
  exact hreadInt pin s hs

/-- Settles O16: with both arguments in their domains the pin is driven; an invalid pin takes its fault before the
value is looked at (R60), an invalid value takes its own. -/
theorem writeIntDrivesOnePin : Obligations.WriteIntDrivesOnePin := by
  refine ⟨fun _ hop => decode_of_fields hop (fun _ => rfl) (fun _ => rfl), fun _ _ => rfl, fun pin data s hs =>
    ⟨fun hpin hdata => ?_, fun hpin hdata => ?_, fun hpin => exec_of_invalidPin hs hpin⟩⟩
  · have hdom : (Instr.writeInt pin data).inDomain = true :=
      Bool.and_eq_true_iff.mpr ⟨decide_eq_true hpin, decide_eq_true ((lt_two_iff data).mpr hdata)⟩
    rw [exec_of_inDomain hs hdom, ← outAfter_writeInt]
    rfl
  · exact exec_writeInt_of_invalidBit hs hpin fun hlt => not_or.mpr hdata ((lt_two_iff data).mp hlt)

end Sys2Proof.Proofs

/-! SUPPORT. Faults (spec/60_exceptions.md): which condition gives each rung of R60's ladder, what an accepted command
leaves in FAULT, and what a HALTED block does at an edge and along a run without reset (R115, R116). -/

namespace Sys2Proof.Machine

/-! ### The rungs of the ladder -/

/-- The opcodes with a pin operand are none of the reserved ones (R51, R59). -/
theorem not_reserved_of_mem_pinOpcodes {op : Byte} (h : op ∈ pinOpcodes) : ¬(op = 0x00#8 ∨ 11 ≤ op.toNat) := by
  fin_cases h <;> decide

/-- R111: the code of InvalidPinIndex, which no rung above takes from an opcode with a pin operand. -/
theorem faultLadder_eq_invalidPin_iff (op pin data : Byte) :
    faultLadder op pin data = 0b01#2 ↔ op ∈ pinOpcodes ∧ 5 ≤ pin.toNat := by
  constructor
  · intro h
    by_contra hpin
    rw [faultLadder, if_neg hpin] at h
    split_ifs at h <;> cases h
  · intro hpin
    rw [faultLadder, if_neg (not_reserved_of_mem_pinOpcodes hpin.1), if_pos hpin]

/-- R112: the code of InvalidBitValue; the rung above it takes `writeInt`'s invalid pins (R114). -/
theorem faultLadder_eq_invalidBit_iff (op pin data : Byte) :
    faultLadder op pin data = 0b10#2 ↔ op = 0x09#8 ∧ pin.toNat < 5 ∧ 2 ≤ data.toNat := by
  have hmem : 0x09#8 ∈ pinOpcodes := by decide
  constructor
  · intro h
    unfold faultLadder at h
    split_ifs at h with hres hpin hbit
    · cases h
    · cases h
    · obtain ⟨rfl, hdata⟩ := hbit
      exact ⟨rfl, Nat.lt_of_not_le fun hge => hpin ⟨hmem, hge⟩, hdata⟩
    · cases h
  · rintro ⟨rfl, hlt, hdata⟩
    have hpin : ¬(0x09#8 ∈ pinOpcodes ∧ 5 ≤ pin.toNat) := fun ⟨_, hge⟩ => Nat.not_le.mpr hlt hge
    rw [faultLadder, if_neg (not_reserved_of_mem_pinOpcodes hmem), if_neg hpin, if_pos ⟨rfl, hdata⟩]

/-- R117: the code of IllegalCommand, on the first rung. -/
theorem faultLadder_eq_illegal_iff (op pin data : Byte) :
    faultLadder op pin data = 0b11#2 ↔ op = 0x00#8 ∨ 11 ≤ op.toNat := by
  refine ⟨fun h => ?_, fun hres => if_pos hres⟩
  by_contra hres
  rw [faultLadder, if_neg hres] at h
  split_ifs at h <;> cases h

/-! ### What an accepted command or word leaves -/

/-- An accepted command goes on with the ladder's code for its operands in FAULT (R60). -/
theorem exec_fault {s : State} (hs : s.fault = 0b00#2) (i : Instr) :
    ∃ t, exec i s = .next t ∧ t.fault = faultLadder i.opcode i.pinOperand i.dataOperand := by
  cases hi : i.inDomain with
  | true => exact ⟨completed i s, exec_of_inDomain hs hi, hs.trans (faultLadder_of_inDomain hi).symm⟩
  | false => exact ⟨faulted (faultCause i) s, exec_of_not_inDomain hs hi, (faultLadder_of_not_inDomain hi).symm⟩

/-- R113: a word that turns a RUNNING block HALTED leaves the state of taking a fault. -/
theorem wordNext_of_fault_ne_zero {w : CommandWord} {s : State} (hs : s.fault = 0b00#2)
    (ht : (wordNext w s).fault ≠ 0b00#2) : ∃ c, wordNext w s = faulted c s := by
  obtain ⟨hne, -⟩ | ⟨-, hfaulted⟩ | ⟨-, i, -, -, hok⟩ := wordNext_cases w s
  · exact absurd hs hne
  · exact hfaulted
  · rw [hok] at ht
    exact absurd hs ht

/-! ### A HALTED block -/

/-- R115: at an edge without reset a HALTED block gives no response and follows the load, whatever is presented. -/
theorem edgeNext_halted {e : Edge} {s : State} (hr : e.rst = false) (hs : s.fault ≠ 0b00#2) :
    edgeNext e s = (noResponse s).withInp (if e.inWe then e.inD else s.inp) := by
  have hport : portNext e s = noResponse s := by
    unfold portNext wordNext
    rw [if_neg hs, ite_self]
  rw [edgeNext, hr, if_neg Bool.false_ne_true, hport, loadInput_eq, noResponse_inp]

/-- Without a reset among the edges to come the next edge has none; past the list it is idle (Log 3). -/
theorem frontEdge_rst_of_noReset {s : State} (h : s.noReset = true) : (frontEdge s).rst = false := by
  unfold State.noReset at h
  unfold frontEdge
  cases hes : s.edges with
  | nil => rfl
  | cons e es =>
    rw [hes, List.all_cons] at h
    obtain ⟨hhead, -⟩ := Bool.and_eq_true_iff.mp h
    simpa using hhead

/-- Taking an edge keeps the edges to come free of reset. -/
theorem tail_noReset {s t : State} (h : s.noReset = true) (ht : t.edges = s.edges.tail) : t.noReset = true := by
  unfold State.noReset at h ⊢
  rw [ht]
  exact List.all_eq_true.mpr fun e he => List.all_eq_true.mp h e (List.mem_of_mem_tail he)

/-- R115, R116: along a run without reset a HALTED block keeps DIR, OUT and FAULT. -/
theorem run_halted (k : Nat) {s : State} (hs : s.fault ≠ 0b00#2) (hn : s.noReset = true) :
    ∃ t, run k s = .next t ∧ t.dir = s.dir ∧ t.out = s.out ∧ t.fault = s.fault := by
  induction k generalizing s with
  | zero => exact ⟨s, rfl, rfl, rfl, rfl⟩
  | succ k ih =>
    have hstep := edgeNext_halted (s := dropEdge s) (frontEdge_rst_of_noReset hn) hs
    rw [run_succ, hstep]
    exact ih hs (tail_noReset hn rfl)

end Sys2Proof.Machine

/-! The statements of spec/60_exceptions.md. -/

namespace Sys2Proof.Proofs

open Sys2Proof.Machine

/-- Settles O27, by the ladder's rung for the pin. -/
theorem invalidPinIndexExactlyOnBadPin : Obligations.InvalidPinIndexExactlyOnBadPin := by
  intro i s hs
  obtain ⟨t, hexec, hfault⟩ := exec_fault hs i
  exact ⟨t, hexec, hfault ▸ faultLadder_eq_invalidPin_iff _ _ _⟩

/-- Settles O28, by the ladder's rung for the bit value. -/
theorem invalidBitValueExactlyOnWriteInt : Obligations.InvalidBitValueExactlyOnWriteInt := by
  intro i s hs
  obtain ⟨t, hexec, hfault⟩ := exec_fault hs i
  exact ⟨t, hexec, hfault ▸ faultLadder_eq_invalidBit_iff _ _ _⟩

/-- Settles O29: the ladder's first rung is the reserved opcode's, and such a word takes the fault. -/
theorem illegalCommandExactlyOnReservedOpcode : Obligations.IllegalCommandExactlyOnReservedOpcode := by
  intro w s hs
  refine ⟨⟨wordNext w s, runWord_eq w s, ?_⟩, fun hres => ?_⟩
  · rw [wordNext_fault hs]
    exact faultLadder_eq_illegal_iff _ _ _
  · rw [runWord_of_reserved hres]
    exact accept_running hs _

/-- Settles O31: of what a word can do while RUNNING, only taking a fault leaves FAULT nonzero. -/
theorem faultEntryChangesOnlyFault : Obligations.FaultEntryChangesOnlyFault := by
  intro w s t hs h ht
  rw [runWord_eq] at h
  cases h
  obtain ⟨c, hc⟩ := wordNext_of_fault_ne_zero hs ht
  rw [hc]
  rfl

/-- Settles O33: no command is accepted, so an edge without reset is its load. -/
theorem haltedBlockAcceptsNothing : Obligations.HaltedBlockAcceptsNothing := by
  refine ⟨fun i s hs => exec_halted hs i, fun s e es h hr hs => ⟨?_, ?_⟩⟩
  · simp [cmdReady, hs]
  · rw [step_of_edges_cons h, edgeNext_halted (s := s.withEdges es) hr hs]
    rfl

/-- Settles O34: the run keeps FAULT, and a state with FAULT nonzero has gone wrong and is not final. -/
theorem haltedUntilReset : Obligations.HaltedUntilReset := by
  intro k s hs hn
  obtain ⟨t, hrun, hdir, hout, hfault⟩ := run_halted k hs hn
  have hwrong : t.goneWrong := fun hrunning => hs (hfault.symm.trans hrunning)
  exact ⟨t, hrun, hdir, hout, hfault, hwrong, fun ⟨_, hrunning⟩ => hwrong hrunning⟩

end Sys2Proof.Proofs

/-! SUPPORT. What a write of OUT and a command on DIR leave at the bits they address (R56, R57), and the reset step
(R140). -/

namespace Sys2Proof.Machine

/-- Driving a pin gives its bit the level (R91, R93). -/
theorem getLsbD_driveMask_bitmask (p : Pin) (level : Bool) (r : Byte) :
    (driveMask (bitmask p) level r).getLsbD p.val = level := by
  have hmask : (bitmask p).getLsbD p.val = true := by rw [getLsbD_bitmask, decide_eq_true rfl]
  cases level with
  | true => rw [driveMask, if_pos rfl, setBits, BitVec.getLsbD_or, hmask, Bool.or_true]
  | false =>
    rw [driveMask, if_neg Bool.false_ne_true, clearBits, BitVec.getLsbD_and, BitVec.getLsbD_not, hmask, Bool.not_true,
      Bool.and_false, Bool.and_false]

/-- `write`'s operand stands for true iff it is not zero (R58). -/
theorem boolOperand_eq_decide (data : Byte) : boolOperand data = decide (data ≠ 0x00#8) :=
  Bool.eq_iff_iff.mpr (bne_iff_ne.trans decide_eq_true_iff.symm)

/-- Replacing the window leaves the new value's bits in it (R57). -/
theorem window_replaceWindow (d r : Byte) : window (replaceWindow d r) = window d := by
  have hdisjoint : Config.highMask &&& Config.windowMask = 0x00#8 := by decide
  rw [window, replaceWindow, BitVec.and_or_distrib_right, BitVec.and_assoc, BitVec.and_assoc, hdisjoint,
    BitVec.and_self, BitVec.and_zero, BitVec.zero_or, window]

/-- Clearing the window leaves nothing in it (R72). -/
theorem window_clearBits_windowMask (r : Byte) : window (clearBits Config.windowMask r) = 0x00#8 := by
  have hdisjoint : ~~~Config.windowMask &&& Config.windowMask = 0x00#8 := by decide
  rw [window, clearBits, BitVec.and_assoc, hdisjoint, BitVec.and_zero]

/-- R40: an edge with reset is the reset step, whatever else is presented. -/
theorem edgeNext_of_rst {e : Edge} (hr : e.rst = true) (s : State) : edgeNext e s = resetRegisters s := if_pos hr

end Sys2Proof.Machine

/-! The statements of spec/70_reset_and_hazards.md. -/

namespace Sys2Proof.Proofs

open Sys2Proof.Machine

/-- Settles O25: the write drives the pin's bit of OUT, which the read keeps; the read forces the pin to input and
answers from IN, which the write kept. -/
theorem readUndrivesTheWrittenPin : Obligations.ReadUndrivesTheWrittenPin := by
  intro pin data s hs hpin
  have hwrite : (Instr.write pin data).inDomain = true := decide_eq_true hpin
  have hread : (Instr.read pin).inDomain = true := decide_eq_true hpin
  refine ⟨completed (.write pin data) s, completed (.read pin) (completed (.write pin data) s),
    exec_of_inDomain hs hwrite, exec_of_inDomain hs hread, ?_, ?_, rfl, rfl⟩
  · exact (getLsbD_dirAfter_of_pin (p := ⟨pin.toNat, hpin⟩) rfl _ _).trans (if_pos rfl)
  · exact (getLsbD_driveMask_bitmask ⟨pin.toNat, hpin⟩ _ s.out).trans (boolOperand_eq_decide data)

/-- Settles O26: readPort answers from IN, which the write kept, keeps OUT, and makes every pin an input. -/
theorem writtenPortIsNotReadBack : Obligations.WrittenPortIsNotReadBack := by
  intro data s hs
  exact ⟨completed (.writePort data) s, completed .readPort (completed (.writePort data) s),
    exec_of_inDomain hs rfl, exec_of_inDomain hs rfl, rfl, window_replaceWindow data s.out,
    window_clearBits_windowMask _⟩

/-- Settles O32: in its domain a command completes and keeps FAULT zero, outside it takes a fault, whose code is not
zero. -/
theorem noFaultIffArgumentsInDomain : Obligations.NoFaultIffArgumentsInDomain := by
  intro i s hs
  cases hi : i.inDomain with
  | true => exact ⟨completed i s, exec_of_inDomain hs hi, iff_of_true hs rfl⟩
  | false =>
    exact ⟨faulted (faultCause i) s, exec_of_not_inDomain hs hi,
      iff_of_false (faultCause i).code_ne_zero Bool.false_ne_true⟩

/-- Settles O37: the step takes the edge's inputs from the list, and an edge with reset is the reset step. -/
theorem resetEdgeZeroesEveryRegister : Obligations.ResetEdgeZeroesEveryRegister := by
  intro s e es h hr
  rw [step_of_edges_cons h, edgeNext_of_rst hr]
  rfl

end Sys2Proof.Proofs

/-! SUPPORT. The model's own choices about the inputs: a word from the opcode table on the command port (Log 1, 10), and
the edges past the listed ones (Log 3). -/

namespace Sys2Proof.Machine

/-- A table word that reads as a command decodes to it (R50, Log 10). -/
theorem decode_of_decodeTableWord {nbits w : Nat} {i : Instr} (h : decodeTableWord nbits w = some i) :
    decode (tableWord nbits w) = .ok i := by
  unfold decodeTableWord at h
  split at h
  · cases hdec : decode (tableWord nbits w) with
    | ok j => rw [hdec] at h; cases h; rfl
    | error err => rw [hdec] at h; cases h
  · cases h

/-- Following with a step of the edge that changes nothing. -/
theorem andThen_id (o : Out) : andThen o (fun s => s) = o := by
  cases o <;> rfl

/-- The inputs of the next edge where none are listed, and what remains: no input is active (Log 3). -/
theorem frontEdge_nil {s : State} (h : s.edges = []) : frontEdge s = Edge.idle ∧ dropEdge s = s := by
  obtain ⟨dir, out, inp, fault, rsp, edges⟩ := s
  cases h
  exact ⟨rfl, rfl⟩

/-- An idle edge changes no register and is not answered (R32). -/
theorem edgeNext_idle (s : State) : edgeNext Edge.idle s = noResponse s := rfl

end Sys2Proof.Machine

/-! The statements of spec/30_encoding.md section 8 and of the model's own choices (Log 1, 3). -/

namespace Sys2Proof.Proofs

open Sys2Proof.Machine

/-- Settles O5: each of the ten commands' words is the command's canonical word (O1), and each opcode of the last two is
reserved. -/
theorem encodingExamplesDecode : Obligations.EncodingExamplesDecode :=
  ⟨decodeEncodeAgree .setPortOutput, decodeEncodeAgree .setPortInput, decodeEncodeAgree (.setPinOutput 0x04#8),
    decodeEncodeAgree (.setPinInput 0x00#8), decodeEncodeAgree (.writePort 0xE0#8), decodeEncodeAgree .readPort,
    decodeEncodeAgree (.write 0x03#8 0x01#8), decodeEncodeAgree (.read 0x03#8),
    decodeEncodeAgree (.writeInt 0x02#8 0x01#8), decodeEncodeAgree (.readInt 0x03#8),
    decode_of_reserved (.inl rfl), decode_of_reserved (.inr (by decide))⟩

/-- Settles O40: the step performs the placed word's command (O39), and its edge loads nothing after it. -/
theorem placedWordIsRunNext : Obligations.PlacedWordIsRunNext := by
  intro s nbits w i h
  have hstep := stepRunsTheDecodedCommand (s.withFetchWord nbits w) (Edge.command (tableWord nbits w)) s.edges i
    rfl rfl rfl (decode_of_decodeTableWord h)
  exact hstep.trans (andThen_id _)

/-- Settles O41: the step is an idle edge at the state itself. -/
theorem unlistedEdgesAreIdle : Obligations.UnlistedEdgesAreIdle := by
  intro s h
  obtain ⟨hfront, hdrop⟩ := frontEdge_nil h
  rw [step_eq, hfront, hdrop, edgeNext_idle]
  rfl

end Sys2Proof.Proofs
